-- ==== Sys2Proof/Word.lean ====
section
/-! DEFINITION. The word types of the PTW block: every width the spec gives a signal, a register or a field
(00_scope.md R6 and R7, 10_state.md R24 to R29). A width-N value is an unsigned N-bit value (R7), so each is a
bit vector. -/

namespace Sys2Proof

/-- One byte of physical memory (20_memory.md R50, R52). -/
abbrev Byte := BitVec 8

/-- A 64-bit value: a page-table entry, a virtual address, a memory word (R6: `PTE_W`, `VA_W`). -/
abbrev Word := BitVec 64

/-- A physical page number (R6: `PPN_W` = 44). -/
abbrev Ppn := BitVec 44

/-- A physical byte address (R6: `PA_W` = 56). -/
abbrev Pa := BitVec 56

/-- The codec's flags vector, PTE bits 9:0 at the same positions (30_encoding.md R83). -/
abbrev Flags := BitVec 10

/-- An index into a node (R6: `VPN_W` = 9). -/
abbrev Idx := BitVec 9

/-- A page offset (R6: `PAGE_SHIFT` = 12). -/
abbrev Off := BitVec 12

/-- A level as the 2-bit registers `lvl_q` and `rlvl_q` hold it (10_state.md R24). -/
abbrev Lvl := BitVec 2

/-- The zero-write counter `zi_q` (10_state.md R24). -/
abbrev Zi := BitVec 10

/-- A status code as `status_q` and `rsp_status` hold it (10_state.md R24, 30_encoding.md R88). -/
abbrev StatusCode := BitVec 3

/-- One host operation as the model's operation word holds it: the OPID in bits 3:0 and the operands above it
(30_encoding.md R94, R95; the widths beyond the OPID are log entry 1). -/
abbrev OpWord := BitVec 112

end Sys2Proof
end

