-- ==== Sys2Proof/Config.lean ====
section
/-! DEFINITION. What an implementation or a platform fixes, and the values the spec leaves free.
The two OPEN parameters of 00_scope.md R6 (`DEBUG_ASSERT` and `MEM_ADMITS`) are plain data held in State and never
changed by a step, so a statement about every state holds for every value of them (93_implementation_defined.md:
treatment `parameter`). The allocator's answers and the registers after a reset edge are free values
(treatments `draw` and `any value`): opaque constants applied to a counter of State. -/

namespace Sys2Proof

/-- A block of physical addresses, both ends included. -/
structure AddrRange where
  lo : Pa
  hi : Pa
  deriving DecidableEq, Repr, Inhabited

/-- The build and platform parameters that R6 leaves OPEN.
* `debugAssert` is `DEBUG_ASSERT`: whether the hardware drives `enc_err_o` and `pa_err_o` (92 D17).
* `holes` gives `MEM_ADMITS`: the memory serves a request address unless it lies in one of these ranges (92 D31). -/
structure Platform where
  debugAssert : Bool
  holes       : List AddrRange
  deriving DecidableEq, Repr, Inhabited

/-- One answer of the frame allocator (10_state.md R28, 20_memory.md R66): `Ok` with any 44-bit PPN, or `OutOfMemory`. -/
inductive AllocAnswer where
  | ok (ppn : Ppn)
  | outOfMemory
  deriving DecidableEq, Repr, Inhabited

/-- The free answer of an unscripted allocator to its n-th request (R66: "either answer may come to any request";
treatment `draw`). It has no body: nothing is known of it. Log entry 6. -/
opaque Config.allocDraw : Nat → AllocAnswer

/-- The free contents of the walker's registers after a reset edge (70_reset_and_hazards.md R200: "every other walker
register keeps or takes an unspecified value"). It has no body. Log entry 5. -/
opaque Config.resetFree : Nat → Word

end Sys2Proof
end

