-- ==== Sys2Proof/Syntax.lean ====
section
/-! DEFINITION. The operations of the PTW block, one constructor per row of spec/opcode_table.json (30_encoding.md R94),
and the actions of the host around them: the pseudo-operations of R96 and the raw drive of the ports of
10_state.md R25 to R29. -/

namespace Sys2Proof

/-- The ten operations (30_encoding.md R94). Operand widths are the port widths of 10_state.md R25 and R29. -/
inductive Instr where
  /-- `ENCODE` (40_pte_codec.md R100): `enc_ppn_i`, `enc_flags_i`. -/
  | encode (ppn : Word) (flags : Flags)
  /-- `DECODE` (R102): `dec_raw_i`. -/
  | decode (raw : Word)
  /-- `IS_EMPTY` (R103): `dec_raw_i`. -/
  | isEmpty (raw : Word)
  /-- `IS_BRANCH` (R104): `dec_raw_i`. -/
  | isBranch (raw : Word)
  /-- `IS_LEAF` (R105): `dec_raw_i`. -/
  | isLeaf (raw : Word)
  /-- `PA_TO_PPN` (R107): `pa_i`. -/
  | paToPpn (pa : Word)
  /-- `PPN_TO_PA` (R108): `cat_ppn_i`, `cat_off_i`. -/
  | ppnToPa (ppn : Ppn) (off : Off)
  /-- `VA_SPLIT` (41_walker.md R130): `va_i`. -/
  | vaSplit (va : Word)
  /-- `WALK.NC` (R133): `req_va`, `req_root_ppn`, with `req_create` = 0. -/
  | walkNc (va : Word) (root : Ppn)
  /-- `WALK.C` (R134): `req_va`, `req_root_ppn`, with `req_create` = 1. -/
  | walkC (va : Word) (root : Ppn)
  deriving DecidableEq, Repr, Inhabited

/-- The operation id of R94. -/
def Instr.opid : Instr → BitVec 4
  | .encode _ _ => 0x0
  | .decode _ => 0x1
  | .isEmpty _ => 0x2
  | .isBranch _ => 0x3
  | .isLeaf _ => 0x4
  | .paToPpn _ => 0x5
  | .ppnToPa _ _ => 0x6
  | .vaSplit _ => 0x7
  | .walkNc _ _ => 0x8
  | .walkC _ _ => 0x9

/-- Every input signal of the walker's ports at one rising edge of `clk`: `rst` (70_reset_and_hazards.md R200) and the
inputs of the request, response, memory and allocator ports (10_state.md R25 to R28). -/
structure Pins where
  rst           : Bool
  reqValid      : Bool
  reqVa         : Word
  reqRootPpn    : Ppn
  reqCreate     : Bool
  rspReady      : Bool
  memReqReady   : Bool
  memRspValid   : Bool
  memRspRdata   : Word
  allocReqReady : Bool
  allocRspValid : Bool
  allocRspOk    : Bool
  allocRspPpn   : Ppn
  deriving DecidableEq, Repr, Inhabited

/-- Every walker input low: nothing is offered, accepted or answered, and reset is not asserted. -/
def Pins.quiet : Pins :=
  { rst := false, reqValid := false, reqVa := 0, reqRootPpn := 0, reqCreate := false, rspReady := false,
    memReqReady := false, memRspValid := false, memRspRdata := 0, allocReqReady := false, allocRspValid := false,
    allocRspOk := false, allocRspPpn := 0 }

/-- The codec's input signals (10_state.md R29). -/
structure CodecIn where
  encPpnI   : Word
  encFlagsI : Flags
  decRawI   : Word
  paI       : Word
  catPpnI   : Ppn
  catOffI   : Off
  vaI       : Word
  deriving DecidableEq, Repr, Inhabited

/-- What the host does next. Everything outside the block is an input (00_scope.md R10: "Host: every agent other than
the PTW block that touches the same memory or drives its ports"); the pending actions are a list in State. -/
inductive HostAction where
  /-- Run one operation of the block, given as its operation word (30_encoding.md R94, R95). -/
  | op (w : OpWord)
  /-- One rising edge of `clk` with these levels on the walker's inputs (41_walker.md R140 to R150). -/
  | edge (p : Pins)
  /-- Drive the codec's inputs (10_state.md R29: "usable by the host at any time"). -/
  | driveCodec (c : CodecIn)
  /-- `HOST.WRITE` (R96): an 8-byte write. -/
  | hostWrite (pa : Pa) (val : Word)
  /-- `HOST.READ` (R96): an 8-byte read. -/
  | hostRead (pa : Pa)
  /-- A one-byte write of the host, a narrower access of 20_memory.md R52. -/
  | hostWriteByte (pa : Pa) (val : Byte)
  /-- A one-byte read of the host, a narrower access of 20_memory.md R52. -/
  | hostReadByte (pa : Pa)
  /-- `ALLOC.SCRIPT` (R96): the answers to the next allocation requests, in order. -/
  | allocScript (answers : List AllocAnswer)
  /-- `LEAF.SET` (R96). -/
  | leafSet (va : Word) (root : Ppn) (pa : Word) (flags : Flags)
  /-- The memory answers the oldest request that a reset left unanswered, and the host keeps the answer from the walker
  (70_reset_and_hazards.md R201). A write is performed or never is. -/
  | lateAnswer (perform : Bool)
  deriving DecidableEq, Repr, Inhabited

end Sys2Proof
end

