-- ==== Sys2Proof/WellFormed.lean ====
section
/-! DEFINITION. What is well formed. An operation has no ill-formed operand: each operand has its port's width as its
type, and the spec accepts every value of that width (30_encoding.md R87 "Every value of every field is accepted; there
is no illegal request"; 40_pte_codec.md R100, R102, R107, R108; 41_walker.md R130). What can be ill formed is an
operation word, a host access outside the address space and an address range. -/

namespace Sys2Proof

/-- Every operation is well formed, constructor by constructor: no field of any of them has an illegal value. An
out-of-range PPN or physical address is a legal operand that raises its assertion (40_pte_codec.md R101, R107). -/
def Instr.wf : Instr → Bool
  | .encode _ _ => true
  | .decode _ => true
  | .isEmpty _ => true
  | .isBranch _ => true
  | .isLeaf _ => true
  | .paToPpn _ => true
  | .ppnToPa _ _ => true
  | .vaSplit _ => true
  | .walkNc _ _ => true
  | .walkC _ _ => true

/-- The operation ids that R94 assigns: 0x0 to 0x9. -/
def opidAssigned (o : BitVec 4) : Bool := o.toNat ≤ 9

/-- How many bits of an operation word its OPID and operands take (log entry 1). -/
def opWordBits (o : BitVec 4) : Nat :=
  match o.toNat with
  | 0 => 78
  | 6 => 60
  | 8 => 112
  | 9 => 112
  | _ => 68

/-- An operation word in the one form `encode` writes: its OPID is assigned, and no bit stands above its operands. -/
def OpWord.wf (w : OpWord) : Bool :=
  opidAssigned (w.extractLsb' 0 4) && decide (w.toNat < 2 ^ opWordBits (w.extractLsb' 0 4))

/-- An access of `n` bytes at `pa` lies inside the 56-bit address space (20_memory.md R50). -/
def accessInside (pa : Pa) (n : Nat) : Bool := decide (pa.toNat + n ≤ 2 ^ 56)

/-- A host action whose memory access lies inside the address space, and whose operation word, if any, is well formed. -/
def HostAction.wf : HostAction → Bool
  | .op w => OpWord.wf w
  | .hostWrite pa _ => accessInside pa 8
  | .hostRead pa => accessInside pa 8
  | .hostWriteByte pa _ => accessInside pa 1
  | .hostReadByte pa => accessInside pa 1
  | .edge _ => true
  | .driveCodec _ => true
  | .allocScript _ => true
  | .leafSet _ _ _ _ => true
  | .lateAnswer _ => true

/-- A range of addresses that is not empty. -/
def AddrRange.wf (r : AddrRange) : Bool := decide (r.lo.toNat ≤ r.hi.toNat)

end Sys2Proof
end

