-- ==== Sys2Proof/Decode.lean ====
section
/-! DEFINITION. The decoder from operation words to operations, and the encoder back. 30_encoding.md R95: "The encoding
of a line is its OPID and its field values". The OPID stands in bits 3:0 (R94 and the table's mask 0xF); the operands
stand above it in the order R95 writes them, each at its port's width, without gaps (log entry 1). Bits above the last
operand are not looked at: the table's mask covers the OPID alone. -/

namespace Sys2Proof

/-- Why a word is no operation. -/
inductive DecodeError where
  /-- The OPID is one of 0xA to 0xF (R93: "no operation; a model refuses them"). -/
  | reservedOpid (opid : BitVec 4)
  deriving DecidableEq, Repr

/-- The OPID of a word. -/
def OpWord.opid (w : OpWord) : BitVec 4 := w.extractLsb' 0 4

/-- A 64-bit first operand: bits 67:4. -/
def OpWord.word (w : OpWord) : Word := w.extractLsb' 4 64

/-- `ENCODE`'s flags: bits 77:68. -/
def OpWord.flags (w : OpWord) : Flags := w.extractLsb' 68 10

/-- `PPN_TO_PA`'s PPN: bits 47:4. -/
def OpWord.catPpn (w : OpWord) : Ppn := w.extractLsb' 4 44

/-- `PPN_TO_PA`'s offset: bits 59:48. -/
def OpWord.catOff (w : OpWord) : Off := w.extractLsb' 48 12

/-- A walk's root PPN: bits 111:68. -/
def OpWord.root (w : OpWord) : Ppn := w.extractLsb' 68 44

/-- The operation a word stands for (R94); total, and a reserved OPID is rejected by name. -/
def decode (w : OpWord) : Except DecodeError Instr :=
  match w.opid.toNat with
  | 0 => .ok (.encode w.word w.flags)
  | 1 => .ok (.decode w.word)
  | 2 => .ok (.isEmpty w.word)
  | 3 => .ok (.isBranch w.word)
  | 4 => .ok (.isLeaf w.word)
  | 5 => .ok (.paToPpn w.word)
  | 6 => .ok (.ppnToPa w.catPpn w.catOff)
  | 7 => .ok (.vaSplit w.word)
  | 8 => .ok (.walkNc w.word w.root)
  | 9 => .ok (.walkC w.word w.root)
  | _ => .error (.reservedOpid w.opid)

/-- A word with a 64-bit operand alone. -/
def packWord (opid : BitVec 4) (v : Word) : OpWord := (v ++ opid).setWidth 112

/-- A walk's word. -/
def packWalk (opid : BitVec 4) (va : Word) (root : Ppn) : OpWord := root ++ (va ++ opid)

/-- The word of an operation (R94, R95). -/
def encode : Instr → OpWord
  | .encode ppn flags => (flags ++ (ppn ++ 0x0#4)).setWidth 112
  | .decode raw => packWord 0x1 raw
  | .isEmpty raw => packWord 0x2 raw
  | .isBranch raw => packWord 0x3 raw
  | .isLeaf raw => packWord 0x4 raw
  | .paToPpn pa => packWord 0x5 pa
  | .ppnToPa ppn off => (off ++ (ppn ++ 0x6#4)).setWidth 112
  | .vaSplit va => packWord 0x7 va
  | .walkNc va root => packWalk 0x8 va root
  | .walkC va root => packWalk 0x9 va root

/-- The operation word of a table row: the row's bits, every bit above them 0. -/
def tableWord (nbits w : Nat) : OpWord := BitVec.ofNat 112 (w % 2 ^ nbits)

/-- What the decoder reads from an instruction whose bits are `w`, numbered as the table numbers them. -/
def decodeTableWord (nbits w : Nat) : Option Instr :=
  match decode (tableWord nbits w) with
  | .ok i => some i
  | .error _ => none

end Sys2Proof
end

