-- ==== Sys2Proof/Machine/State.lean ====
section
/-! DEFINITION. The state of the PTW block and of the environment it depends on (10_state.md R20 to R34): the walker's
registers, its port inputs, the codec's inputs, physical memory, the allocator, the host's pending actions. Everything
is plain data. Output signals are functions of this state (Machine/Ports.lean), as R23 and R33 say they are. -/

namespace Sys2Proof.Machine

/-- The values of `st` (10_state.md R22). Their numeric encoding is not observable; a model uses the names. -/
inductive Fsm where
  | idle | check | rdReq | rdWait | alReq | alWait | zrReq | zrWait | inReq | inWait | rsp
  deriving DecidableEq, Repr, Inhabited

/-- The walker's sequencing and datapath registers (10_state.md R22, R24), under the spec's names. -/
structure Walker where
  st      : Fsm
  vaQ     : Word
  createQ : Bool
  nodeQ   : Ppn
  lvlQ    : Lvl
  entQ    : Word
  newQ    : Ppn
  ziQ     : Zi
  statusQ : StatusCode
  rlvlQ   : Lvl
  rnodeQ  : Ppn
  ridxQ   : Idx
  deriving DecidableEq, Repr, Inhabited

/-- The fields of a walk response (30_encoding.md R86). -/
structure Response where
  status : StatusCode
  level  : Lvl
  node   : Ppn
  index  : Idx
  slotPa : Pa
  deriving DecidableEq, Repr, Inhabited

/-- A request of the walker's memory port (10_state.md R27, 30_encoding.md R90). -/
structure MemReq where
  we    : Bool
  addr  : Pa
  wdata : Word
  deriving DecidableEq, Repr, Inhabited

/-- A completed port transaction: a read or a write whose response has returned (20_memory.md R56), or an allocation
and its answer (R65). -/
inductive Txn where
  | read (pa : Pa) (val : Word)
  | write (pa : Pa) (val : Word)
  | alloc (answer : AllocAnswer)
  deriving DecidableEq, Repr, Inhabited

/-- What the host last read: the right side of a script line (30_encoding.md R95, R96). Truth values are bits (R9). -/
inductive OpResult where
  | none
  | encode (raw : Word) (err : Bool)
  | decode (ppn : Ppn) (flags : Flags)
  | isEmpty (b : Bool)
  | isBranch (b : Bool)
  | isLeaf (b : Bool)
  | paToPpn (ppn : Ppn) (off : Off) (err : Bool) (unal : Bool)
  | ppnToPa (pa : Pa)
  | vaSplit (canon : Bool) (vpn2 vpn1 vpn0 : Idx) (off : Off)
  | walk (r : Response)
  | hostWord (val : Word)
  | hostByte (val : Byte)
  deriving DecidableEq, Repr, Inhabited

/-- Physical memory: the cells that do not hold 0, by strictly rising address (log entry 3). -/
abbrev Mem := List Host.Cell

/-- The machine's state. -/
structure State where
  /-- The walker's registers (10_state.md R22, R24). -/
  walker      : Walker
  /-- The levels on the walker's inputs at the last clock edge (R25 to R28, 70_reset_and_hazards.md R200). -/
  pins        : Pins
  /-- At the last edge `req_valid` was 1 and `req_ready` was 0: the host must hold the request (R25). -/
  reqWaiting  : Bool
  /-- The levels on the codec's inputs (R29). -/
  codec       : CodecIn
  /-- Physical memory (R31, 20_memory.md R50). -/
  mem         : Mem
  /-- While a read is outstanding: the values its word has held since the request was accepted and holds no more, newest
  first (20_memory.md R55, R61; log entry 14). -/
  readSeen    : List Word
  /-- Memory requests accepted and not answered when a reset came, oldest first (70_reset_and_hazards.md R201). -/
  lateReqs  : List MemReq
  /-- The allocator: `none` answers freely (20_memory.md R66); `some l` gives the answers `l` in order and then none
  (30_encoding.md R96 `ALLOC.SCRIPT`). -/
  allocScript : Option (List AllocAnswer)
  /-- The model's own counter of free allocator answers (log entry 6). -/
  allocDraws  : Nat
  /-- The model's own counter of reset edges, for the free registers after each (log entry 5). -/
  resetDraws  : Nat
  /-- The OPEN parameters `DEBUG_ASSERT` and `MEM_ADMITS` (00_scope.md R6). -/
  platform    : Platform
  /-- What the host does next, first action first (log entry 2). -/
  host        : List HostAction
  /-- What the host last read (log entry 8). -/
  result      : OpResult
  /-- The transactions completed since the last request handshake, newest first: an observer of the memory and
  allocator ports, read by no step (log entry 9). -/
  txns        : List Txn
  deriving DecidableEq, Repr

/-- Why the machine stops. -/
inductive Fault where
  /-- `Fault(EncodePpnRange)`, raised by `ENCODE` on a PPN of 2^44 or more whatever `DEBUG_ASSERT` is
  (40_pte_codec.md R101, 60_exceptions.md R188). Safe: the hardware goes on. -/
  | encodePpnRange
  /-- `Fault(PaRange)`, raised by `PA_TO_PPN` on an address whose bits 63:56 are not 0 (R107, R188). Safe: the hardware
  goes on. -/
  | paRange
  /-- `Fault(Protocol)`, raised by a clock edge at which the host breaks the port protocol (R189), the late response to a
  request of before a reset among the ways (R201). Safe. -/
  | protocol
  /-- The stuck state of a walk whose request lies outside `MEM_ADMITS`: it gets no response and the walk waits for
  ever (20_memory.md R57, 92 D31). Raised by a walk, and by an edge that answers such a request. Safe. -/
  | memNeverAnswers
  /-- A clock edge at which the memory answers a read with a value that the word has held at no moment since the request
  was accepted. No memory of the spec does so (20_memory.md R55, R57, R62). Safe: it ends no run the spec allows. -/
  | readNotHeld
  /-- The stuck state of a walk that asks a scripted allocator whose script has run out (95_test_vectors.md P3 line 1:
  "any allocation request would get no answer"). Raised by a walk. Safe. -/
  | allocNeverAnswers
  /-- `descend` at a level other than 2 or 1, which R150 says never happens. Raised by a clock edge in a state that no
  run reaches (Safety.lean's invariant excludes it). Safe. -/
  | descendBelowLevelOne
  /-- A walk in progress did not end within `walkFuel` edges. No state raises it (log entry 10). Safe. -/
  | walkOverrun
  /-- A host access that runs past the end of the 56-bit address space (R50). Raised by a host read or write. Safe. -/
  | outsideAddressSpace
  deriving DecidableEq, Repr

/-- Why there is no step for an input. -/
inductive Refusal where
  /-- An operation that has no meaning yet. No arm of `exec` raises it. Safe. -/
  | notModelled (mnemonic : String)
  /-- An operation word whose OPID is 0xA to 0xF (30_encoding.md R93: "no operation; a model refuses them"). Raised by
  the step that takes the word. Safe. -/
  | reservedOpid (opid : BitVec 4)
  deriving DecidableEq, Repr

/-- The walker after reset: `st` is `IDLE` (R200); the spec gives no other register a value and each is named 0 here
(log entry 4). -/
def walkerReset : Walker :=
  { st := .idle, vaQ := 0, createQ := false, nodeQ := 0, lvlQ := 0, entQ := 0, newQ := 0, ziQ := 0, statusQ := 0,
    rlvlQ := 0, rnodeQ := 0, ridxQ := 0 }

/-- The codec's inputs before the host drives them (log entry 4). -/
def codecReset : CodecIn :=
  { encPpnI := 0, encFlagsI := 0, decRawI := 0, paI := 0, catPpnI := 0, catOffI := 0, vaI := 0 }

/-- Right after reset: the walker is `IDLE` and waits for a request (70_reset_and_hazards.md R200, R202); `rst` has
returned to 0. -/
def State.reset : State :=
  { walker := walkerReset, pins := .quiet, reqWaiting := false, codec := codecReset, mem := [], readSeen := [],
    lateReqs := [], allocScript := none, allocDraws := 0, resetDraws := 0, platform := { debugAssert := false, holes := [] },
    host := [], result := .none, txns := [] }

end Sys2Proof.Machine
end

