-- ==== Sys2Proof/Machine/Flags.lean ====
section
/-! DEFINITION. The page-table entry: its fields (30_encoding.md R70 to R83), the codec's packing and unpacking
(40_pte_codec.md R100, R102) and its three classifications (R103 to R105). The block has no status flags
(10_state.md R21); its flags are the bits of an entry. This is the one place that knows the layout (R111). -/

namespace Sys2Proof.Machine

/-- `V`, bit 0, present (R71). -/
def pteV (raw : Word) : Bool := raw.getLsbD 0

/-- `R`, bit 1, readable (R72). -/
def pteR (raw : Word) : Bool := raw.getLsbD 1

/-- `W`, bit 2, writable (R73). -/
def pteW (raw : Word) : Bool := raw.getLsbD 2

/-- `X`, bit 3, executable (R74). -/
def pteX (raw : Word) : Bool := raw.getLsbD 3

/-- `U`, bit 4, user-accessible (R75). -/
def pteU (raw : Word) : Bool := raw.getLsbD 4

/-- `G`, bit 5, global (R76). -/
def pteG (raw : Word) : Bool := raw.getLsbD 5

/-- `A`, bit 6, accessed (R77). -/
def pteA (raw : Word) : Bool := raw.getLsbD 6

/-- `D`, bit 7, dirty (R78). -/
def pteD (raw : Word) : Bool := raw.getLsbD 7

/-- `NOWN`, bit 8, non-owning (R79). -/
def pteNown (raw : Word) : Bool := raw.getLsbD 8

/-- `AUX`, bit 9, software auxiliary state (R80). -/
def pteAux (raw : Word) : Bool := raw.getLsbD 9

/-- Bits 9:0, the flags vector (R83). -/
def pteFlags (raw : Word) : Flags := raw.extractLsb' 0 10

/-- `PPN`, bits 53:10 (R81). -/
def ptePpn (raw : Word) : Ppn := raw.extractLsb' 10 44

/-- `RSVD`, bits 63:54 (R82); no test and no operation reads it. -/
def pteRsvd (raw : Word) : BitVec 10 := raw.extractLsb' 54 10

/-- The flags vector of the branch entry the walker installs: `V` alone (R75 to R80, 92 D6). -/
def flagsV : Flags := 0x001

/-- `enc_raw_o` (R100): the PPN above the flags, `RSVD` 0. -/
def pteEncode (ppn : Ppn) (flags : Flags) : Word := (ppn ++ flags).setWidth 64

/-- The part of a 64-bit PPN argument that `ENCODE` packs: `ppn[43:0]` (R100). -/
def encPpnLow (ppn : Word) : Ppn := ppn.extractLsb' 0 44

/-- The encode assertion's condition: `enc_ppn_i` is 2^44 or more (R101). -/
def encPpnOutOfRange (ppn : Word) : Bool := decide (2 ^ 44 ≤ ppn.toNat)

/-- Empty: `raw[0] == 0` (R103). -/
def pteIsEmpty (raw : Word) : Bool := !pteV raw

/-- Branch: present and `raw[3:1] == 0b000` (R104). -/
def pteIsBranch (raw : Word) : Bool := pteV raw && decide (raw.extractLsb' 1 3 = 0)

/-- Leaf: present and `raw[3:1] != 0b000` (R105). -/
def pteIsLeaf (raw : Word) : Bool := pteV raw && decide (raw.extractLsb' 1 3 ≠ 0)

/-- The kinds of an entry (R110). -/
inductive PteKind where
  | empty | branch | leaf
  deriving DecidableEq, Repr

/-- `kind_at(raw, L)` (R110): the classification of an entry at a level. -/
def kindAt (raw : Word) (level : Nat) : PteKind :=
  if !pteV raw then .empty
  else if raw.extractLsb' 1 3 ≠ 0 ∨ level = 0 then .leaf
  else .branch

/-- `ENCODE(new, {V})`, the branch entry the walker installs (R111, 41_walker.md R147). -/
def branchEntry (new : Ppn) : Word := pteEncode new flagsV

end Sys2Proof.Machine
end

