-- ==== Sys2Proof/Machine/Operands.lean ====
section
/-! DEFINITION. The address forms: the fields of a virtual address (30_encoding.md R84, R92) and its canonical form
(41_walker.md R131), the fields of a physical address (R85), and the address of an entry (20_memory.md R53). -/

namespace Sys2Proof.Machine

/-- `vpn(va, L) = va[12 + 9*L + 8 : 12 + 9*L]` (R92). -/
def vpnAt (va : Word) (level : Nat) : Idx := va.extractLsb' (12 + 9 * level) 9

/-- `vpn(va, L)` with the level as a register holds it. -/
def vpn (va : Word) (level : Lvl) : Idx := vpnAt va level.toNat

/-- `off(va) = va[11:0]` (R92). -/
def vaOff (va : Word) : Off := va.extractLsb' 0 12

/-- `canonical(va)`: bits 63:39 all equal bit 38 (R131). -/
def canonical (va : Word) : Bool :=
  decide (va.extractLsb' 39 25 = if va.getLsbD 38 then BitVec.allOnes 25 else 0)

/-- `pa[55:12]` (R85, 40_pte_codec.md R107). -/
def paPpn (pa : Word) : Ppn := pa.extractLsb' 12 44

/-- `pa[11:0]` (R85, R107). -/
def paOff (pa : Word) : Off := pa.extractLsb' 0 12

/-- `pa[63:56] != 0`: the value does not fit the 56-bit address (R107). -/
def paOutOfRange (pa : Word) : Bool := decide (pa.extractLsb' 56 8 ≠ 0)

/-- `pa[11:0] != 0`: the address is not page-aligned (R107). -/
def paUnaligned (pa : Word) : Bool := decide (paOff pa ≠ 0)

/-- `ppn ++ off` (R108). -/
def catPa (ppn : Ppn) (off : Off) : Pa := ppn ++ off

/-- `entry_pa(node, idx)` (R53). -/
def entryPa (node : Ppn) (idx : Idx) : Pa := (node.setWidth 56 <<< 12) ||| (idx.setWidth 56 <<< 3)

/-- `MEM_ADMITS(pa)` (00_scope.md R6, R57): the memory serves the address. -/
def admits (p : Platform) (pa : Pa) : Bool :=
  !p.holes.any fun r => decide (r.lo.toNat ≤ pa.toNat) && decide (pa.toNat ≤ r.hi.toNat)

end Sys2Proof.Machine
end

