-- ==== Sys2Proof/Machine/Ops.lean ====
section
/-! DEFINITION. The shared operations: physical memory (20_memory.md R50 to R57), the three port transactions of
00_scope.md R8 (`MemRead`, `MemWrite`, `AllocFrame`), latching a request (41_walker.md R140), recording how a walk ended
(`finish`, R148: the block's only analogue of taking an exception, 60_exceptions.md R180, R191) and the response
handshake that ends it (R149: the analogue of the return, R192). -/

namespace Sys2Proof.Machine

/-- The outcome of a step of this machine. -/
abbrev Out := Host.Outcome State Fault Refusal

/-- Go on with the next state; a fault or a refusal ends the run. -/
def andThen (o : Out) (k : State → Out) : Out :=
  match o with
  | .next s => k s
  | .fault f => .fault f
  | .refused r => .refused r

/-! ### Memory -/

/-- What a byte that nothing has written reads as (log entry 3). -/
def unwrittenByte : Byte := 0

/-- The byte at an address. -/
def memByte : Mem → Nat → Byte
  | [], _ => unwrittenByte
  | (k, v) :: m, a => if k = a then v else memByte m a

/-- Memory with the byte at an address replaced; the list stays in its one form. -/
def memSetByte : Mem → Nat → Byte → Mem
  | [], a, b => if b = unwrittenByte then [] else [(a, b)]
  | (k, v) :: m, a, b =>
    if k < a then (k, v) :: memSetByte m a b
    else if k = a then (if b = unwrittenByte then m else (a, b) :: m)
    else if b = unwrittenByte then (k, v) :: m
    else (a, b) :: (k, v) :: m

/-- The one form of a memory: addresses inside the 56-bit space and strictly rising from `lo`, and no cell that holds
what an unlisted address reads as. -/
def memWfFrom : Nat → Mem → Bool
  | _, [] => true
  | lo, (k, v) :: m => decide (lo ≤ k) && decide (k < 2 ^ 56) && decide (v ≠ unwrittenByte) && memWfFrom (k + 1) m

/-- The form holds of a whole memory. -/
def memWf (m : Mem) : Bool := memWfFrom 0 m

/-- Byte `i` of a word, little-endian (R52). -/
def wordByte (v : Word) (i : Nat) : Byte := v.extractLsb' (8 * i) 8

/-- The 64-bit word at byte address `a`: bits 7:0 in the byte at `a`, bits 63:56 in the byte at `a + 7` (R52). -/
def memWord (m : Mem) (a : Nat) : Word :=
  memByte m (a + 7) ++ (memByte m (a + 6) ++ (memByte m (a + 5) ++ (memByte m (a + 4) ++ (memByte m (a + 3) ++
    (memByte m (a + 2) ++ (memByte m (a + 1) ++ memByte m a))))))

/-- Memory with the first `n` bytes of a word stored from byte address `a`, least significant byte first (R52). -/
def memSetBytes (m : Mem) (a : Nat) (v : Word) : Nat → Mem
  | 0 => m
  | n + 1 => memSetByte (memSetBytes m a v n) (a + n) (wordByte v n)

/-- Memory with a 64-bit word stored at byte address `a` (R52, R55). -/
def memSetWord (m : Mem) (a : Nat) (v : Word) : Mem := memSetBytes m a v 8

/-- Memory with the whole frame `p` zero: every cell of the frame is dropped, since a cell that is not listed reads 0.
It is what the 512 zero writes of 41_walker.md R135 leave (Laws/Address.lean, `memZeroFrame_eq_zeroWrites`). -/
def memZeroFrame (m : Mem) (p : Ppn) : Mem := m.filter fun c => decide (c.1 / 4096 ≠ p.toNat)

/-- The first `n` of the 512 zero writes into frame `p`, in ascending index order (R135). -/
def zeroWrites (m : Mem) (p : Ppn) : Nat → Mem
  | 0 => m
  | n + 1 => memSetWord (zeroWrites m p n) (entryPa p (BitVec.ofNat 9 n)).toNat 0

/-! ### Named updates of the state -/

/-- Replace the walker's registers. -/
def setWalker (w : Walker) (s : State) : State := { s with walker := w }

/-- Note a completed transaction (R56). -/
def record (t : Txn) (s : State) : State := { s with txns := t :: s.txns }

/-- Replace memory. -/
def setMem (m : Mem) (s : State) : State := { s with mem := m }

/-- What the host read. -/
def setResult (r : OpResult) (s : State) : State := { s with result := r }

/-- Drive the codec's inputs (10_state.md R29). -/
def setCodec (c : CodecIn) (s : State) : State := { s with codec := c }

/-- Drive the walker's inputs to `p`; `waiting` says whether the request offered on them is held. -/
def setPins (p : Pins) (waiting : Bool) (s : State) : State := { s with pins := p, reqWaiting := waiting }

/-- Forget the transactions of the walk before (log entry 9). -/
def clearTxns (s : State) : State := { s with txns := [] }

/-- A read request has been accepted: the values its word holds from now on are the ones that count (log entry 14). -/
def openRead (s : State) : State := { s with readSeen := [] }

/-! ### Walker registers -/

/-- The request handshake latches the request and goes to `CHECK` (R140). -/
def acceptRequest (va : Word) (root : Ppn) (create : Bool) (w : Walker) : Walker :=
  { w with vaQ := va, createQ := create, nodeQ := root, lvlQ := 2, st := .check }

/-- The read response latches the entry read (R143: `ent_q <- r`). -/
def latchEntry (raw : Word) (w : Walker) : Walker := { w with entQ := raw }

/-- The allocator's `Ok` latches the new frame and clears the zero-write counter (R145). -/
def latchFrame (new : Ppn) (w : Walker) : Walker := { w with newQ := new, ziQ := 0 }

/-- Go down one level: the node register takes the next node (R150). -/
def enterNode (p : Ppn) (level : Lvl) (w : Walker) : Walker := { w with nodeQ := p, lvlQ := level }

/-- Move the FSM (R140 to R150). -/
def goto (st : Fsm) (w : Walker) : Walker := { w with st := st }

/-- The walk outcomes with their codes (30_encoding.md R88). -/
inductive Status where
  | ok | invalidAddress | notMapped | blockedBySuperpage | outOfMemory
  deriving DecidableEq, Repr

/-- The code of a status (R88); 5, 6 and 7 are never produced. -/
def statusCode : Status → StatusCode
  | .ok => 0
  | .invalidAddress => 1
  | .notMapped => 2
  | .blockedBySuperpage => 3
  | .outOfMemory => 4

/-- `finish(s, l, n, i)` (R148): the one place that records how a walk ended. -/
def finish (status : Status) (level : Lvl) (node : Ppn) (idx : Idx) (w : Walker) : Walker :=
  { w with statusQ := statusCode status, rlvlQ := level, rnodeQ := node, ridxQ := idx, st := .rsp }

/-- The response fields as the registers hold them; `rsp_slot_pa` is formed from them (10_state.md R26, R86). -/
def responseOf (w : Walker) : Response :=
  { status := w.statusQ, level := w.rlvlQ, node := w.rnodeQ, index := w.ridxQ, slotPa := entryPa w.rnodeQ w.ridxQ }

/-- The response handshake (R149): the host takes the response and the walker is `IDLE` again (R192). -/
def takeResponse (s : State) : State :=
  setWalker (goto .idle s.walker) (setResult (.walk (responseOf s.walker)) s)

/-- `respond(status, level, node, index)` (00_scope.md R8): present a response and wait for its handshake. -/
def respond (status : Status) (level : Lvl) (node : Ppn) (idx : Idx) (s : State) : Out :=
  .next (takeResponse (setWalker (finish status level node idx s.walker) s))

/-! ### Port transactions -/

/-- `MemRead(pa, 8)` (R8): the value at an admitted address; at any other the walk waits for ever (R57). It is answered
while requests of before a reset still stand in `lateReqs`: the model's choice (log entry 22). -/
def portRead (pa : Pa) (s : State) (k : Word → State → Out) : Out :=
  if admits s.platform pa then
    k (memWord s.mem pa.toNat) (record (.read pa (memWord s.mem pa.toNat)) (openRead s))
  else .fault .memNeverAnswers

/-- A write that the memory has performed (R56). -/
def performWrite (pa : Pa) (v : Word) (s : State) : State :=
  record (.write pa v) (setMem (memSetWord s.mem pa.toNat v) s)

/-- `MemWrite(pa, 8, v)` (R8): complete when its response returns; outside `MEM_ADMITS` the walk waits for ever.
Its place beside the writes left by a reset is the model's choice (log entry 22). -/
def portWrite (pa : Pa) (v : Word) (s : State) (k : State → Out) : Out :=
  if admits s.platform pa then k (performWrite pa v s) else .fault .memNeverAnswers

/-- The 512 zero writes into a new frame as transactions, newest first (R135). -/
def zeroTxns (new : Ppn) : List Txn :=
  ((List.range 512).map fun i => Txn.write (entryPa new (BitVec.ofNat 9 i)) 0).reverse

/-- The memory serves every entry of the frame (R57). -/
def frameAdmitted (p : Platform) (new : Ppn) : Bool :=
  (List.range 512).all fun i => admits p (entryPa new (BitVec.ofNat 9 i))

/-- The 512 zero writes have been performed. -/
def zeroed (new : Ppn) (s : State) : State :=
  { s with mem := memZeroFrame s.mem new, txns := zeroTxns new ++ s.txns }

/-- `for i in 0 .. 511: MemWrite(entry_pa(new, i), 8, 0)` (R135): one write that gets no response and the walk waits for
ever. -/
def portZeroFrame (new : Ppn) (s : State) (k : State → Out) : Out :=
  if frameAdmitted s.platform new then k (zeroed new s) else .fault .memNeverAnswers

/-- The allocator's answer to the next request: the script's next answer, or a free one (R66, log entry 6). A script that
has run out gives none. -/
def nextAnswer (s : State) : Option (AllocAnswer × State) :=
  match s.allocScript with
  | some (a :: l) => some (a, { s with allocScript := some l })
  | some [] => none
  | none => some (Config.allocDraw s.allocDraws, { s with allocDraws := s.allocDraws + 1 })

/-- `AllocFrame()` (R8). -/
def allocFrame (s : State) (k : AllocAnswer → State → Out) : Out :=
  match nextAnswer s with
  | some (a, s') => k a (record (.alloc a) s')
  | none => .fault .allocNeverAnswers

end Sys2Proof.Machine
end

