-- ==== Sys2Proof/Machine/Ports.lean ====
section
/-! DEFINITION. The output signals (10_state.md R25 to R29, R33, R34) as functions of the state. The fields of a port
whose valid is 0 are unspecified (R33, R34), so a port is an `Option`: `some` exactly when its valid is 1. -/

namespace Sys2Proof.Machine

/-- `idx_q`, the index at the level being visited (41_walker.md, section 3). -/
def idxQ (w : Walker) : Idx := vpn w.vaQ w.lvlQ

/-- The address of the entry being visited: `entry_pa(node_q, idx_q)` (R142, R147). -/
def slotAddr (w : Walker) : Pa := entryPa w.nodeQ (idxQ w)

/-- The address of zero write number `zi_q`: `entry_pa(new_q, zi_q[8:0])` (R146). -/
def zeroAddr (w : Walker) : Pa := entryPa w.newQ (w.ziQ.extractLsb' 0 9)

/-- `req_ready`: `st = IDLE` and reset is not asserted (R25). -/
def reqReady (s : State) : Bool := decide (s.walker.st = .idle) && !s.pins.rst

/-- `rsp_valid` (R26, R33). -/
def rspValid (s : State) : Bool := decide (s.walker.st = .rsp) && !s.pins.rst

/-- `alloc_req_valid` (R28, R33). -/
def allocReqValid (s : State) : Bool := decide (s.walker.st = .alReq) && !s.pins.rst

/-- The request of the transaction that the walker's state issues or awaits (R142, R146, R147). -/
def requestOf (w : Walker) : Option MemReq :=
  match w.st with
  | .rdReq | .rdWait => some { we := false, addr := slotAddr w, wdata := 0 }
  | .zrReq | .zrWait => some { we := true, addr := zeroAddr w, wdata := 0 }
  | .inReq | .inWait => some { we := true, addr := slotAddr w, wdata := branchEntry w.newQ }
  | .idle | .check | .alReq | .alWait | .rsp => none

/-- The address of that request; where there is none, the visited entry's. -/
def requestAddr (w : Walker) : Pa :=
  match w.st with
  | .zrReq | .zrWait => zeroAddr w
  | .idle | .check | .rdReq | .rdWait | .alReq | .alWait | .inReq | .inWait | .rsp => slotAddr w

/-- The walker offers a memory request (R27). -/
def memReqValid (s : State) : Bool :=
  (decide (s.walker.st = .rdReq) || decide (s.walker.st = .zrReq) || decide (s.walker.st = .inReq)) && !s.pins.rst

/-- The memory port's outputs while `mem_req_valid` = 1 (R27, R33). -/
def memReq (s : State) : Option MemReq := if memReqValid s then requestOf s.walker else none

/-- The response port's outputs while `rsp_valid` = 1 (R26, R34). -/
def rspOut (s : State) : Option Response := if rspValid s then some (responseOf s.walker) else none

/-- A memory request is accepted and not yet answered (R56, R189). -/
def memOutstanding (w : Walker) : Bool :=
  decide (w.st = .rdWait) || decide (w.st = .zrWait) || decide (w.st = .inWait)

/-- What the memory may answer to the read outstanding: the value of its word now, or one the word has held since the
request was accepted (20_memory.md R55, R61, R62). With no write between there is one such value (R57). -/
def readHeld (r : Word) (s : State) : Bool :=
  decide (r = memWord s.mem (slotAddr s.walker).toNat) || s.readSeen.contains r

/-- Before another agent's write: the value that the word of the read outstanding, if there is one, holds until now. -/
def noteRead (s : State) : State :=
  if s.walker.st = .rdWait then { s with readSeen := memWord s.mem (slotAddr s.walker).toNat :: s.readSeen } else s

/-- Another agent's write to memory (20_memory.md R61). -/
def foreignWrite (m : Mem) (s : State) : State := setMem m (noteRead s)

/-! ### The codec's outputs: at every instant a function of its inputs (R23) -/

/-- `enc_raw_o` (40_pte_codec.md R100), in and out of range alike (R101). -/
def encRawO (s : State) : Word := pteEncode (encPpnLow s.codec.encPpnI) s.codec.encFlagsI

/-- `enc_err_o`: driven only when `DEBUG_ASSERT` = 1 (R101). -/
def encErrO (s : State) : Bool := s.platform.debugAssert && encPpnOutOfRange s.codec.encPpnI

/-- `dec_ppn_o` (R102). -/
def decPpnO (s : State) : Ppn := ptePpn s.codec.decRawI

/-- `dec_flags_o` (R102). -/
def decFlagsO (s : State) : Flags := pteFlags s.codec.decRawI

/-- `dec_is_empty_o` (R103). -/
def decIsEmptyO (s : State) : Bool := pteIsEmpty s.codec.decRawI

/-- `dec_is_branch_o` (R104). -/
def decIsBranchO (s : State) : Bool := pteIsBranch s.codec.decRawI

/-- `dec_is_leaf_o` (R105). -/
def decIsLeafO (s : State) : Bool := pteIsLeaf s.codec.decRawI

/-- `pa_ppn_o` (R107). -/
def paPpnO (s : State) : Ppn := paPpn s.codec.paI

/-- `pa_off_o` (R107). -/
def paOffO (s : State) : Off := paOff s.codec.paI

/-- `pa_err_o`: driven only when `DEBUG_ASSERT` = 1 (R107). -/
def paErrO (s : State) : Bool := s.platform.debugAssert && paOutOfRange s.codec.paI

/-- `pa_unal_o` (R107). -/
def paUnalO (s : State) : Bool := paUnaligned s.codec.paI

/-- `cat_pa_o` (R108). -/
def catPaO (s : State) : Pa := catPa s.codec.catPpnI s.codec.catOffI

/-- `va_canon_o` (41_walker.md R130). -/
def vaCanonO (s : State) : Bool := canonical s.codec.vaI

/-- `va_vpn2_o`, `va_vpn1_o`, `va_vpn0_o` (R130). -/
def vaVpnO (s : State) (level : Nat) : Idx := vpnAt s.codec.vaI level

/-- `va_off_o` (R130). -/
def vaOffO (s : State) : Off := vaOff s.codec.vaI

end Sys2Proof.Machine
end

