-- ==== Sys2Proof/Machine/Codec.lean ====
section
/-! DEFINITION. The codec operations (40_pte_codec.md R100 to R108). Each drives its inputs on the codec's ports and
reads its outputs (30_encoding.md R94, "Hardware selection"); nothing else changes (10_state.md R29: "the host's use of
the codec ports never disturbs a walk"). -/

namespace Sys2Proof.Machine

/-- `ENCODE` (R100), with the model fault of R101 whatever `DEBUG_ASSERT` is. -/
def execEncode (ppn : Word) (flags : Flags) (s : State) : Out :=
  let t := setCodec { s.codec with encPpnI := ppn, encFlagsI := flags } s
  if encPpnOutOfRange ppn then .fault .encodePpnRange
  else .next (setResult (.encode (encRawO t) (encErrO t)) t)

/-- `DECODE` (R102). -/
def execDecode (raw : Word) (s : State) : Out :=
  let t := setCodec { s.codec with decRawI := raw } s
  .next (setResult (.decode (decPpnO t) (decFlagsO t)) t)

/-- `IS_EMPTY` (R103). -/
def execIsEmpty (raw : Word) (s : State) : Out :=
  let t := setCodec { s.codec with decRawI := raw } s
  .next (setResult (.isEmpty (decIsEmptyO t)) t)

/-- `IS_BRANCH` (R104). -/
def execIsBranch (raw : Word) (s : State) : Out :=
  let t := setCodec { s.codec with decRawI := raw } s
  .next (setResult (.isBranch (decIsBranchO t)) t)

/-- `IS_LEAF` (R105). -/
def execIsLeaf (raw : Word) (s : State) : Out :=
  let t := setCodec { s.codec with decRawI := raw } s
  .next (setResult (.isLeaf (decIsLeafO t)) t)

/-- `PA_TO_PPN` (R107), with its model fault on `pa[63:56] != 0` whatever `DEBUG_ASSERT` is (60_exceptions.md R188). An
address with an offset is no error. -/
def execPaToPpn (pa : Word) (s : State) : Out :=
  let t := setCodec { s.codec with paI := pa } s
  if paOutOfRange pa then .fault .paRange
  else .next (setResult (.paToPpn (paPpnO t) (paOffO t) (paErrO t) (paUnalO t)) t)

/-- `PPN_TO_PA` (R108). -/
def execPpnToPa (ppn : Ppn) (off : Off) (s : State) : Out :=
  let t := setCodec { s.codec with catPpnI := ppn, catOffI := off } s
  .next (setResult (.ppnToPa (catPaO t)) t)

/-- `VA_SPLIT` (41_walker.md R130). -/
def execVaSplit (va : Word) (s : State) : Out :=
  let t := setCodec { s.codec with vaI := va } s
  .next (setResult (.vaSplit (vaCanonO t) (vaVpnO t 2) (vaVpnO t 1) (vaVpnO t 0) (vaOffO t)) t)

end Sys2Proof.Machine
end

