-- ==== Sys2Proof/Machine/Edge.lean ====
section
/-! DEFINITION. The walker's FSM, one rising edge of `clk` at a time (41_walker.md R140 to R150), with reset
(70_reset_and_hazards.md R200, R201) and the protocol faults (60_exceptions.md R189). At an edge at which a state's
condition does not hold every register is unchanged. Each edge function reads the input levels in `s.pins`. -/

namespace Sys2Proof.Machine

/-- `descend(p)` (R150). The spec never applies it at another level than 2 or 1. -/
def edgeDescend (p : Ppn) (s : State) : Out :=
  if s.walker.lvlQ = 1 then
    .next (setWalker (finish .ok 0 p (vpn s.walker.vaQ 0) (enterNode p 0 s.walker)) s)
  else if s.walker.lvlQ = 2 then .next (setWalker (goto .rdReq (enterNode p 1 s.walker)) s)
  else .fault .descendBelowLevelOne

/-- `IDLE` (R140). -/
def edgeIdle (s : State) : Out :=
  if s.pins.reqValid then
    .next (clearTxns (setWalker (acceptRequest s.pins.reqVa s.pins.reqRootPpn s.pins.reqCreate s.walker) s))
  else .next s

/-- `CHECK` (R141). -/
def edgeCheck (s : State) : Out :=
  if canonical s.walker.vaQ then .next (setWalker (goto .rdReq s.walker) s)
  else .next (setWalker (finish .invalidAddress 3 0 0 s.walker) s)

/-- A state that offers a request moves on when the request is accepted (R144, R146, R147). -/
def edgeOffer (ready : Bool) (target : Fsm) (s : State) : Out :=
  if ready then .next (setWalker (goto target s.walker) s) else .next s

/-- `RD_REQ` (R142). -/
def edgeRdReq (s : State) : Out :=
  if s.pins.memReqReady then .next (openRead (setWalker (goto .rdWait s.walker) s)) else .next s

/-- What `RD_WAIT` does with the entry read (R143). -/
def edgeEntry (r : Word) (s : State) : Out :=
  if pteIsBranch r then edgeDescend (ptePpn r) s
  else if pteIsEmpty r then
    if s.walker.createQ then .next (setWalker (goto .alReq s.walker) s)
    else .next (setWalker (finish .notMapped s.walker.lvlQ s.walker.nodeQ (idxQ s.walker) s.walker) s)
  else .next (setWalker (finish .blockedBySuperpage s.walker.lvlQ s.walker.nodeQ (idxQ s.walker) s.walker) s)

/-- `RD_WAIT` (R143): the data is a value of the word read (20_memory.md R55, R57, R62). -/
def edgeRdWait (s : State) : Out :=
  if s.pins.memRspValid then
    if readHeld s.pins.memRspRdata s then
      edgeEntry s.pins.memRspRdata
        (setWalker (latchEntry s.pins.memRspRdata s.walker) (record (.read (slotAddr s.walker) s.pins.memRspRdata) s))
    else .fault .readNotHeld
  else .next s

/-- `AL_WAIT` (R145). -/
def edgeAlWait (s : State) : Out :=
  if s.pins.allocRspValid then
    if s.pins.allocRspOk then
      .next (setWalker (goto .zrReq (latchFrame s.pins.allocRspPpn s.walker)) (record (.alloc (.ok s.pins.allocRspPpn)) s))
    else
      .next (setWalker (finish .outOfMemory s.walker.lvlQ s.walker.nodeQ (idxQ s.walker) s.walker)
        (record (.alloc .outOfMemory) s))
  else .next s

/-- The next zero write, or the install after the last one (R146). -/
def nextZero (w : Walker) : Walker :=
  if w.ziQ + 1 = 512 then goto .inReq { w with ziQ := w.ziQ + 1 } else goto .zrReq { w with ziQ := w.ziQ + 1 }

/-- `ZR_WAIT` (R146): the response says the write has been performed (20_memory.md R56). -/
def edgeZrWait (s : State) : Out :=
  if s.pins.memRspValid then .next (setWalker (nextZero s.walker) (performWrite (zeroAddr s.walker) 0 s))
  else .next s

/-- `IN_WAIT` (R147). -/
def edgeInWait (s : State) : Out :=
  if s.pins.memRspValid then edgeDescend s.walker.newQ (performWrite (slotAddr s.walker) (branchEntry s.walker.newQ) s)
  else .next s

/-- `RSP` (R149). -/
def edgeRsp (s : State) : Out :=
  if s.pins.rspReady then .next (takeResponse s) else .next s

/-- The transition of each state (R140 to R149). -/
def fsmEdge (s : State) : Out :=
  match s.walker.st with
  | .idle => edgeIdle s
  | .check => edgeCheck s
  | .rdReq => edgeRdReq s
  | .rdWait => edgeRdWait s
  | .alReq => edgeOffer s.pins.allocReqReady .alWait s
  | .alWait => edgeAlWait s
  | .zrReq => edgeOffer s.pins.memReqReady .zrWait s
  | .zrWait => edgeZrWait s
  | .inReq => edgeOffer s.pins.memReqReady .inWait s
  | .inWait => edgeInWait s
  | .rsp => edgeRsp s

/-- The registers after reset edge number `n`: `st` is `IDLE`, every other register is free (R200, log entry 5). -/
def walkerAfterReset (n : Nat) : Walker :=
  { st := .idle
    vaQ := Config.resetFree (11 * n)
    createQ := (Config.resetFree (11 * n + 1)).getLsbD 0
    nodeQ := (Config.resetFree (11 * n + 2)).setWidth 44
    lvlQ := (Config.resetFree (11 * n + 3)).setWidth 2
    entQ := Config.resetFree (11 * n + 4)
    newQ := (Config.resetFree (11 * n + 5)).setWidth 44
    ziQ := (Config.resetFree (11 * n + 6)).setWidth 10
    statusQ := (Config.resetFree (11 * n + 7)).setWidth 3
    rlvlQ := (Config.resetFree (11 * n + 8)).setWidth 2
    rnodeQ := (Config.resetFree (11 * n + 9)).setWidth 44
    ridxQ := (Config.resetFree (11 * n + 10)).setWidth 9 }

/-- The memory request the walker has issued and not seen answered, if any (R201). -/
def pendingRequest (w : Walker) : Option MemReq := if memOutstanding w then requestOf w else none

/-- What a reset edge makes of a request in flight: answered at this very edge, a write has been performed and a read is
forgotten; otherwise its response is still to come, and a write may still be performed (R201). -/
def settlePending (s : State) : State :=
  match pendingRequest s.walker with
  | none => s
  | some r =>
    if s.pins.memRspValid then (if r.we then performWrite r.addr r.wdata s else s)
    else { s with lateReqs := s.lateReqs ++ [r] }

/-- An edge with `rst` = 1 (R200, R201): the walk is abandoned and nothing is undone. -/
def resetEdge (s : State) : State :=
  { setWalker (walkerAfterReset s.resetDraws) (settlePending s) with resetDraws := s.resetDraws + 1 }

/-- The host changes a request it must hold (R25, R189; log entry 7). -/
def requestChanged (p : Pins) (s : State) : Bool :=
  s.reqWaiting && p.reqValid &&
    !(decide (p.reqVa = s.pins.reqVa) && decide (p.reqRootPpn = s.pins.reqRootPpn) && decide (p.reqCreate = s.pins.reqCreate))

/-- The three violations of R189. -/
def portMisused (p : Pins) (s : State) : Bool :=
  (p.memRspValid && !memOutstanding s.walker) || (p.allocRspValid && !decide (s.walker.st = .alWait)) || requestChanged p s

/-- A memory response is the late response to a request of before a reset (R201): the memory answers in order
(20_memory.md R56, 92 D9), so while such a request has its response to come, a response is that one. A request outside
`MEM_ADMITS` has none to come (R57). Log entry 13. -/
def lateResponse (p : Pins) (s : State) : Bool := p.memRspValid && s.lateReqs.any fun r => admits s.platform r.addr

/-- The host breaks the port protocol at an edge with these levels (R189, R201). -/
def protocolBroken (p : Pins) (s : State) : Bool := portMisused p s || lateResponse p s

/-- The request on these levels is offered and not taken at this edge (R25). -/
def requestHeld (p : Pins) (s : State) : Bool := p.reqValid && !(decide (s.walker.st = .idle) && !p.rst)

/-- A response comes to a request that the memory does not admit, which R57 says gets none (20_memory.md). -/
def answersUnadmitted (p : Pins) (s : State) : Bool :=
  p.memRspValid && !admits s.platform (requestAddr s.walker)

/-- One rising edge of `clk` with the input levels `p`, at which a memory response, if there is one, answers the request
of the walker's state. -/
def ownEdge (p : Pins) (s : State) : Out :=
  if portMisused p s then .fault .protocol
  else if answersUnadmitted p s then .fault .memNeverAnswers
  else if p.rst then .next (resetEdge (setPins p (requestHeld p s) s))
  else fsmEdge (setPins p (requestHeld p s) s)

/-- One rising edge of `clk` with the input levels `p`. -/
def clockEdge (p : Pins) (s : State) : Out := if lateResponse p s then .fault .protocol else ownEdge p s

/-! ### The walker left to an environment that stalls nothing

A walk in progress goes on by itself: every request is accepted at once, the memory answers with what it holds, the
allocator answers, the host takes the response and keeps from the walker the late responses of before a reset (R201). -/

/-- The input levels of that environment, less the answers. -/
def readyPins : Pins := { Pins.quiet with memReqReady := true, allocReqReady := true, rspReady := true }

/-- The memory's answer to the outstanding request; a request outside `MEM_ADMITS` is never answered (R57). That it comes
while requests of before a reset still stand in `lateReqs` is the model's choice (log entry 22). -/
def memAnswer (s : State) : Out :=
  if admits s.platform (requestAddr s.walker) then
    ownEdge { readyPins with memRspValid := true, memRspRdata := memWord s.mem (requestAddr s.walker).toNat } s
  else .fault .memNeverAnswers

/-- The input levels that carry an allocator answer. -/
def answerPins : AllocAnswer → Pins
  | .ok p => { readyPins with allocRspValid := true, allocRspOk := true, allocRspPpn := p }
  | .outOfMemory => { readyPins with allocRspValid := true, allocRspOk := false }

/-- The allocator's answer. That a request accepted before an `ALLOC.SCRIPT` came gets the script's first answer is the
model's choice (log entry 23). -/
def allocAnswerEdge (s : State) : Out :=
  match nextAnswer s with
  | some (a, s') => ownEdge (answerPins a) s'
  | none => .fault .allocNeverAnswers

/-- One edge in that environment. -/
def easyEdge (s : State) : Out :=
  match s.walker.st with
  | .rdWait => memAnswer s
  | .zrWait => memAnswer s
  | .inWait => memAnswer s
  | .alWait => allocAnswerEdge s
  | .idle | .check | .rdReq | .alReq | .zrReq | .inReq | .rsp => ownEdge readyPins s

/-- Edges until the walker is `IDLE`, at most `n` of them. -/
def untilIdle : Nat → State → Out
  | 0, s => if s.walker.st = .idle then .next s else .fault .walkOverrun
  | n + 1, s => if s.walker.st = .idle then .next s else andThen (easyEdge s) (untilIdle n)

/-- More edges than any walk takes (log entry 10). -/
def walkFuel : Nat := 4096

/-- The host waits for `req_ready` (R152): a walk in progress ends first. -/
def awaitIdle (s : State) : Out := untilIdle walkFuel s

end Sys2Proof.Machine
end

