-- ==== Sys2Proof/Machine/Walk.lean ====
section
/-! DEFINITION. The two walk operations as functions over port transactions (41_walker.md section 2, R132 to R139: "the
rule a model's operation step follows"). The registers are left as the FSM of section 3 leaves them (R151). -/

namespace Sys2Proof.Machine

/-- The request handshake of a walk (R140), with the host driving nothing else and `rst` low (70_reset_and_hazards.md
R203). -/
def beginWalk (va : Word) (root : Ppn) (create : Bool) (s : State) : State :=
  setPins .quiet false (clearTxns (setWalker (acceptRequest va root create s.walker) s))

/-- The walk found the node of the next level and goes on there. -/
def descendInto (p : Ppn) (below : Lvl) (s : State) : State := setWalker (enterNode p below s.walker) s

/-- The walk ends at the entry it looked at, at level `level`. -/
def respondHere (status : Status) (level : Lvl) (s : State) : Out :=
  respond status level s.walker.nodeQ (vpn s.walker.vaQ level) s

/-- The end of both loops: `respond(OK, 0, node, vpn(va, 0))`. -/
def respondOk (s : State) : Out := respondHere .ok 0 s

/-- The first lines of both walks: a non-canonical address ends the walk before any transaction (R131, R182). -/
def checkCanonical (k : State → Out) (s : State) : Out :=
  if canonical s.walker.vaQ then k s else respond .invalidAddress 3 0 0 s

/-- `raw <- MemRead(entry_pa(node, vpn(va, L)), 8)`. -/
def readEntry (level : Lvl) (s : State) (k : Word → State → Out) : Out :=
  portRead (entryPa s.walker.nodeQ (vpn s.walker.vaQ level)) s fun raw t => k raw (setWalker (latchEntry raw t.walker) t)

/-- One turn of `WALK_NC`'s loop at level `level`, going on below (R133). -/
def ncLevel (level below : Lvl) (k : State → Out) (s : State) : Out :=
  readEntry level s fun raw t =>
    if pteIsBranch raw then k (descendInto (ptePpn raw) below t)
    else if pteIsEmpty raw then respondHere .notMapped level t
    else respondHere .blockedBySuperpage level t

/-- `MemWrite(entry_pa(node, idx), 8, ENCODE(new, {V}))` (R147). -/
def installBranch (level : Lvl) (new : Ppn) (s : State) (k : State → Out) : Out :=
  portWrite (entryPa s.walker.nodeQ (vpn s.walker.vaQ level)) (branchEntry new) s k

/-- The registers once the new frame is zeroed: `new_q` holds it and `zi_q` has counted to 512 (R145, R146). -/
def latchZeroed (new : Ppn) (w : Walker) : Walker := { w with newQ := new, ziQ := 512 }

/-- What `WALK_C` does with an empty entry (R134): allocate, zero-fill, install, descend without reading back. -/
def createNode (level below : Lvl) (k : State → Out) (s : State) : Out :=
  allocFrame s fun a t =>
    match a with
    | .outOfMemory => respondHere .outOfMemory level t
    | .ok new =>
      portZeroFrame new (setWalker (latchZeroed new t.walker) t) fun u =>
        installBranch level new u fun v => k (descendInto new below v)

/-- One turn of `WALK_C`'s loop (R134). -/
def cLevel (level below : Lvl) (k : State → Out) (s : State) : Out :=
  readEntry level s fun raw t =>
    if pteIsBranch raw then k (descendInto (ptePpn raw) below t)
    else if pteIsEmpty raw then createNode level below k t
    else respondHere .blockedBySuperpage level t

/-- `WALK.NC` (R133). The request waits while a walk is in progress (R152). Requests left by a reset stay unanswered during
it: the model's choice (log entry 22). -/
def execWalkNc (va : Word) (root : Ppn) (s : State) : Out :=
  andThen (awaitIdle s) fun t =>
    checkCanonical (ncLevel 2 1 (ncLevel 1 0 respondOk)) (beginWalk va root false t)

/-- `WALK.C` (R134). The request waits while a walk is in progress (R152). A write left by a reset stays unanswered during it,
and may be performed after the walk's own writes: the model's choice (log entry 22). -/
def execWalkC (va : Word) (root : Ppn) (s : State) : Out :=
  andThen (awaitIdle s) fun t =>
    checkCanonical (cLevel 2 1 (cLevel 1 0 respondOk)) (beginWalk va root true t)

end Sys2Proof.Machine
end

