-- ==== Sys2Proof/Machine/Dispatch.lean ====
section
/-! DEFINITION. One arm per operation of spec/opcode_table.json. -/

namespace Sys2Proof.Machine

def exec (i : Instr) (s : State) : Host.Outcome State Fault Refusal :=
  match i with
  | .encode ppn flags => Sys2Proof.Machine.execEncode ppn flags s
  | .decode raw => Sys2Proof.Machine.execDecode raw s
  | .isEmpty raw => Sys2Proof.Machine.execIsEmpty raw s
  | .isBranch raw => Sys2Proof.Machine.execIsBranch raw s
  | .isLeaf raw => Sys2Proof.Machine.execIsLeaf raw s
  | .paToPpn pa => Sys2Proof.Machine.execPaToPpn pa s
  | .ppnToPa ppn off => Sys2Proof.Machine.execPpnToPa ppn off s
  | .vaSplit va => Sys2Proof.Machine.execVaSplit va s
  | .walkNc va root => Sys2Proof.Machine.execWalkNc va root s
  | .walkC va root => Sys2Proof.Machine.execWalkC va root s

end Sys2Proof.Machine
end

