-- ==== Sys2Proof/Machine/HostActions.lean ====
section
/-! DEFINITION. The actions of the host: running an operation word, clocking the block, driving the codec, and the
pseudo-operations of 30_encoding.md R96. -/

namespace Sys2Proof.Machine

/-- The refusal of a word that is no operation (R93). -/
def refusalOf : DecodeError → Refusal
  | .reservedOpid o => .reservedOpid o

/-- Run an operation word (R94, R95). -/
def runWord (w : OpWord) (s : State) : Out :=
  match decode w with
  | .ok i => exec i s
  | .error e => .refused (refusalOf e)

/-- A host access of `n` bytes at `pa`, inside the address space (20_memory.md R50). -/
def hostAccess (pa : Pa) (n : Nat) (o : Out) : Out := if accessInside pa n then o else .fault .outsideAddressSpace

/-- `HOST.WRITE` (R96), an 8-byte little-endian write (R52). -/
def hostWrite (pa : Pa) (v : Word) (s : State) : Out :=
  hostAccess pa 8 (.next (foreignWrite (memSetWord s.mem pa.toNat v) s))

/-- `HOST.READ` (R96). -/
def hostRead (pa : Pa) (s : State) : Out :=
  hostAccess pa 8 (.next (setResult (.hostWord (memWord s.mem pa.toNat)) s))

/-- A one-byte host write (R52). -/
def hostWriteByte (pa : Pa) (v : Byte) (s : State) : Out :=
  hostAccess pa 1 (.next (foreignWrite (memSetByte s.mem pa.toNat v) s))

/-- A one-byte host read (R52). -/
def hostReadByte (pa : Pa) (s : State) : Out :=
  hostAccess pa 1 (.next (setResult (.hostByte (memByte s.mem pa.toNat)) s))

/-- `ALLOC.SCRIPT` (R96); it replaces an earlier script (log entry 18), and a request already accepted counts among the next
ones (log entry 23). -/
def setAllocScript (answers : List AllocAnswer) (s : State) : State := { s with allocScript := some answers }

/-- Write the encoded leaf to the slot the walk returned (R96, the end of `LEAF.SET`). -/
def writeLeaf (r : Response) (s : State) : Out :=
  match s.result with
  | .encode raw _ => hostWrite r.slotPa raw s
  | _ => .next s

/-- `PA_TO_PPN pa`, then `ENCODE ppn, flags`, then the write (R96). -/
def encodeLeaf (r : Response) (pa : Word) (flags : Flags) (s : State) : Out :=
  andThen (exec (.paToPpn pa) s) fun t =>
    match t.result with
    | .paToPpn ppn _ _ _ => andThen (exec (.encode (ppn.setWidth 64) flags) t) (writeLeaf r)
    | _ => .next t

/-- `LEAF.SET` (R96): "expands to `WALK.C va, root`; if status = OK, `PA_TO_PPN pa`, then `ENCODE ppn, flags`, then
`HOST.WRITE pa=slot, val=raw`". -/
def hostLeafSet (va : Word) (root : Ppn) (pa : Word) (flags : Flags) (s : State) : Out :=
  andThen (exec (.walkC va root) s) fun t =>
    match t.result with
    | .walk r => if r.status = statusCode .ok then encodeLeaf r pa flags t else .next t
    | _ => .next t

/-- The memory answers the oldest request that a reset left unanswered, and its response does not reach the walker
(70_reset_and_hazards.md R201). A write may be performed; one outside `MEM_ADMITS` never is (20_memory.md R57).
That it may come after a later walk operation's own transactions is the model's choice (log entry 22). -/
def settleLate (perform : Bool) (s : State) : State :=
  match s.lateReqs with
  | [] => s
  | r :: l =>
    let t := { s with lateReqs := l }
    if perform && r.we && admits s.platform r.addr then foreignWrite (memSetWord t.mem r.addr.toNat r.wdata) t else t

/-- One action of the host. -/
def perform (a : HostAction) (s : State) : Out :=
  match a with
  | .op w => runWord w s
  | .edge p => clockEdge p s
  | .driveCodec c => .next (setCodec c s)
  | .hostWrite pa v => hostWrite pa v s
  | .hostRead pa => hostRead pa s
  | .hostWriteByte pa v => hostWriteByte pa v s
  | .hostReadByte pa => hostReadByte pa s
  | .allocScript answers => .next (setAllocScript answers s)
  | .leafSet va root pa flags => hostLeafSet va root pa flags s
  | .lateAnswer b => .next (settleLate b s)

/-- Take the first pending action off the list. -/
def takeAction (rest : List HostAction) (s : State) : State := { s with host := rest }

/-- Put an operation word first among the pending actions. -/
def pushWord (w : OpWord) (s : State) : State := { s with host := .op w :: s.host }

end Sys2Proof.Machine
end

