-- ==== Sys2Proof/Machine/Step.lean ====
section
/-! DEFINITION. One step of the machine: the host's next action. The block fetches no instructions (20_memory.md R64);
the operations come from the host, and the list of its pending actions is where a step takes its next one. -/

namespace Sys2Proof.Machine

/-- The host's next action. With none pending the block waits (70_reset_and_hazards.md R202). -/
def step (s : State) : Host.Outcome State Fault Refusal :=
  match s.host with
  | [] => .next s
  | a :: rest => perform a (takeAction rest s)

/-- The instruction of a table row placed where `step` takes its next one. -/
def State.withFetchWord (s : State) (nbits w : Nat) : State := pushWord (tableWord nbits w) s

end Sys2Proof.Machine
end

