-- ==== Sys2Proof/Safety.lean ====
section
/-! DEFINITION. What counts as a safe state and a safe response, in the terms the statements use. -/

namespace Sys2Proof.Machine

/-- A level at which the walker examines entries: 2 or 1 (41_walker.md R133). -/
def walkLevel (l : Lvl) : Bool := decide (l = 2) || decide (l = 1)

/-- The pairings of status and level that occur (30_encoding.md R88, R89), with the response that R86 gives
`INVALID_ADDRESS` and the slot address of R86. -/
def responseLegal (r : Response) : Bool :=
  decide (r.slotPa = entryPa r.node r.index) &&
  match r.status.toNat with
  | 0 => decide (r.level = 0)
  | 1 => decide (r.level = 3) && decide (r.node = 0) && decide (r.index = 0)
  | 2 => walkLevel r.level
  | 3 => walkLevel r.level
  | 4 => walkLevel r.level
  | _ => false

/-- A response that fits the request latched: a canonical address unless it reports the contrary (60_exceptions.md R182,
R187), `NOT_MAPPED` under no-create alone (R183), `OUT_OF_MEMORY` under create alone (R185), and the index of the level. -/
def responseFits (w : Walker) : Bool :=
  match w.statusQ.toNat with
  | 0 => canonical w.vaQ && decide (w.ridxQ = vpn w.vaQ w.rlvlQ)
  | 1 => !canonical w.vaQ
  | 2 => canonical w.vaQ && !w.createQ && decide (w.ridxQ = vpn w.vaQ w.rlvlQ)
  | 3 => canonical w.vaQ && decide (w.ridxQ = vpn w.vaQ w.rlvlQ)
  | 4 => canonical w.vaQ && w.createQ && decide (w.ridxQ = vpn w.vaQ w.rlvlQ)
  | _ => false

/-- A walk past `CHECK`: the address is canonical and the level is 2 or 1 (R141, R150). -/
def descending (w : Walker) : Bool := walkLevel w.lvlQ && canonical w.vaQ

/-- A walk that is creating a node: the policy is create and the entry at hand was read empty (R136, R143). -/
def creating (w : Walker) : Bool := descending w && w.createQ && pteIsEmpty w.entQ

/-- What holds of the walker's registers in each state of the FSM (41_walker.md R140 to R150, R154). -/
def walkerOk (w : Walker) : Bool :=
  match w.st with
  | .idle => true
  | .check => decide (w.lvlQ = 2)
  | .rdReq => descending w
  | .rdWait => descending w
  | .alReq => creating w
  | .alWait => creating w
  | .zrReq => creating w && decide (w.ziQ.toNat < 512)
  | .zrWait => creating w && decide (w.ziQ.toNat < 512)
  | .inReq => creating w && decide (w.ziQ = 512)
  | .inWait => creating w && decide (w.ziQ = 512)
  | .rsp => responseLegal (responseOf w) && responseFits w

/-- A walk result is a legal response; an encoded entry has `RSVD` 0 and raised no assertion. -/
def resultOk : OpResult → Bool
  | .walk r => responseLegal r
  | .encode raw err => decide (pteRsvd raw = 0) && !err
  | .none => true
  | .decode _ _ => true
  | .isEmpty _ => true
  | .isBranch _ => true
  | .isLeaf _ => true
  | .paToPpn _ _ err _ => !err
  | .ppnToPa _ => true
  | .vaSplit _ _ _ _ _ => true
  | .hostWord _ => true
  | .hostByte _ => true

/-- A request the walker can have issued: of an entry's eight bytes (20_memory.md R55), a read with no data (R90). -/
def lateReqOk (r : MemReq) : Bool := decide (r.addr.toNat % 8 = 0) && (r.we || decide (r.wdata = 0))

/-- The invariant that every step keeps. -/
structure Invariant (s : State) : Prop where
  walker  : walkerOk s.walker = true
  mem     : memWf s.mem = true
  late    : s.lateReqs.all lateReqOk = true
  result  : resultOk s.result = true
  waiting : s.reqWaiting = true → s.pins.reqValid = true

/-- The memory serves every address (00_scope.md R6: one value of the OPEN predicate `MEM_ADMITS`). -/
abbrev allAdmitted (s : State) : Prop := ∀ pa, admits s.platform pa = true

/-- The memory serves the entry of `node` at `idx`, and the entry holds `raw`. -/
def entryIs (s : State) (node : Ppn) (idx : Idx) (raw : Word) : Prop :=
  admits s.platform (entryPa node idx) = true ∧ memWord s.mem (entryPa node idx).toNat = raw

/-- What no walk changes: the codec's inputs, the parameters, the host's pending actions, the requests left by a reset and
the reset counter. -/
def walkKeeps (s t : State) : Prop :=
  t.codec = s.codec ∧ t.platform = s.platform ∧ t.host = s.host ∧ t.lateReqs = s.lateReqs ∧
    t.resetDraws = s.resetDraws

/-- The allocator has not been asked. -/
def allocatorSame (s t : State) : Prop := t.allocScript = s.allocScript ∧ t.allocDraws = s.allocDraws

/-- The walk has ended with this response, and the walker is `IDLE` (41_walker.md R149). -/
def answered (t : State) (status : Status) (level : Lvl) (node : Ppn) (idx : Idx) : Prop :=
  t.walker.st = .idle ∧ t.result = .walk ⟨statusCode status, level, node, idx, entryPa node idx⟩

/-- An address lies in the eight bytes of an entry. -/
abbrev inEntry (pa : Pa) (a : Nat) : Prop := pa.toNat ≤ a ∧ a < pa.toNat + 8

/-- An address lies in a frame. -/
abbrev inFrame (p : Ppn) (a : Nat) : Prop := a / 4096 = p.toNat

/-- A read transaction. -/
def isReadTxn : Txn → Bool
  | .read _ _ => true
  | .write _ _ => false
  | .alloc _ => false

/-- A write transaction. -/
def isWriteTxn : Txn → Bool
  | .read _ _ => false
  | .write _ _ => true
  | .alloc _ => false

/-- An allocation. -/
def isAllocTxn : Txn → Bool
  | .read _ _ => false
  | .write _ _ => false
  | .alloc _ => true

/-- The walker's inputs let go: only for comparing two runs that end with different levels on them. -/
def releasePins (o : Out) : Out := andThen o fun s => .next (setPins .quiet false s)

/-- None of the four valid and ready outputs is 1 (41_walker.md section 3: "no valid output"). -/
abbrev silent (s : State) : Prop :=
  reqReady s = false ∧ rspValid s = false ∧ memReqValid s = false ∧ allocReqValid s = false

/-- The input levels that offer a walk request (10_state.md R25). -/
def requestPins (va : Word) (root : Ppn) (create : Bool) : Pins :=
  { Pins.quiet with reqValid := true, reqVa := va, reqRootPpn := root, reqCreate := create }

end Sys2Proof.Machine
end

