-- ==== Sys2Proof/Certificates/Slice0/Obligations.lean ====
section
/-! DEFINITION. The statements about the model, for the provers. Each docstring names the rule of spec/ it formalises. -/

open Sys2Proof Sys2Proof.Machine

/-! ### Operation words -/

/-- 30_encoding.md R94, R95 with log entry 1: decoding the word of an operation gives it back, every operand at every
value, and the word is in the one form. -/
def Obligations.DecodeOfEncodeIsTheOperation : Prop :=
  ∀ i : Instr, i.wf = true → decode (encode i) = .ok i ∧ OpWord.wf (encode i) = true

/-- R94, R95 with log entry 1: encoding what a word decodes to gives the word's OPID and operand bits back, the bits above
them 0. -/
def Obligations.EncodeOfDecodeKeepsOpidAndOperandBits : Prop :=
  ∀ (w : OpWord) (i : Instr), decode w = .ok i → (encode i).toNat = w.toNat % 2 ^ opWordBits (w.extractLsb' 0 4)

/-- R93, R94: an OPID 0xA to 0xF has no step, and every other OPID is the operation the table gives it (the OPID's
place in the word: log entry 1). -/
def Obligations.ReservedOpidsAloneAreRefused : Prop :=
  ∀ (s : State) (w : OpWord) (rest : List HostAction), s.host = .op w :: rest →
    (10 ≤ w.toNat % 16 → ∃ o : BitVec 4, o.toNat = w.toNat % 16 ∧ step s = .refused (.reservedOpid o)) ∧
    (w.toNat % 16 ≤ 9 → ∃ i, decode w = .ok i ∧ i.opid.toNat = w.toNat % 16)

/-- R95 with log entry 1: the words of some lines, written out by hand (operands above the OPID), decode to their
operations. -/
def Obligations.SampleWordsDecode : Prop :=
  decode 0x0000000010000000000800000009 = .ok (.walkC 0x80000000 0x100) ∧
  decode 0x0000000010000000000800001238 = .ok (.walkNc 0x80000123 0x100) ∧
  decode 0x0000000000700000000000100000 = .ok (.encode 0x10000 0x007) ∧
  decode 0x0000000000000000000040000071 = .ok (.decode 0x4000007) ∧
  decode 0x0000000000000123000000100006 = .ok (.ppnToPa 0x10000 0x123) ∧
  decode 0x0000000000000000000800001237 = .ok (.vaSplit 0x80000123)

/-- A step runs the operation that the first pending word decodes to, on the state without that word; a table row's
instruction placed by `withFetchWord` is run at once and exactly (log entry 2). -/
def Obligations.StepRunsTheDecodedOperation : Prop :=
  (∀ (s : State) (w : OpWord) (rest : List HostAction) (i : Instr), s.host = .op w :: rest → decode w = .ok i →
    step s = exec i { s with host := rest }) ∧
  (∀ (s : State) (nbits w : Nat) (i : Instr), decodeTableWord nbits w = some i →
    step (s.withFetchWord nbits w) = exec i s)

/-- 70_reset_and_hazards.md R202: with nothing asked of it the block waits (the list of actions: log entry 2). -/
def Obligations.BlockWaitsForTheHost : Prop :=
  ∀ s : State, s.host = [] → step s = .next s

/-! ### The codec -/

/-- 40_pte_codec.md R100: the entry is the PPN's low 44 bits above the ten flags; the assertion's output, where it is
driven (R101); out of range the model faults. -/
def Obligations.EncodeBuildsTheEntry : Prop :=
  (∀ s : State, (encRawO s).toNat = s.codec.encPpnI.toNat % 2 ^ 44 * 2 ^ 10 + s.codec.encFlagsI.toNat ∧
    (s.platform.debugAssert = true → (encErrO s = true ↔ 2 ^ 44 ≤ s.codec.encPpnI.toNat))) ∧
  (∀ (ppn : Word) (flags : Flags) (s : State), ppn.toNat < 2 ^ 44 →
    ∃ raw : Word, raw.toNat = ppn.toNat * 2 ^ 10 + flags.toNat ∧
      exec (.encode ppn flags) s =
        .next { s with codec := { s.codec with encPpnI := ppn, encFlagsI := flags }, result := .encode raw false }) ∧
  (∀ (ppn : Word) (flags : Flags) (s : State), 2 ^ 44 ≤ ppn.toNat →
    exec (.encode ppn flags) s = .fault .encodePpnRange)

/-- R101: `enc_err_o` is driven only with `DEBUG_ASSERT` = 1, `enc_raw_o` is the truncated value in both cases, and the
model faults on exactly the out-of-range PPNs whatever `DEBUG_ASSERT` is. -/
def Obligations.EncodeAssertionWhateverDebugAssert : Prop :=
  (∀ s : State, encErrO s = true ↔ s.platform.debugAssert = true ∧ 2 ^ 44 ≤ s.codec.encPpnI.toNat) ∧
  (∀ s : State, (encRawO s).toNat = s.codec.encPpnI.toNat % 2 ^ 44 * 2 ^ 10 + s.codec.encFlagsI.toNat) ∧
  (∀ (ppn : Word) (flags : Flags) (s : State),
    exec (.encode ppn flags) s = .fault .encodePpnRange ↔ 2 ^ 44 ≤ ppn.toNat)

/-- R102: every 64-bit value decodes, to bits 53:10 and bits 9:0. -/
def Obligations.DecodeSplitsTheEntry : Prop :=
  ∀ (raw : Word) (s : State), ∃ (ppn : Ppn) (flags : Flags),
    ppn.toNat = raw.toNat / 2 ^ 10 % 2 ^ 44 ∧ flags.toNat = raw.toNat % 2 ^ 10 ∧
    exec (.decode raw) s = .next { s with codec := { s.codec with decRawI := raw }, result := .decode ppn flags }

/-- R103, R104, R105: the three tests read bits 3:0 of the entry and nothing else changes. -/
def Obligations.ClassificationsReadPresentAndPermissionBits : Prop :=
  ∀ (raw : Word) (s : State),
    exec (.isEmpty raw) s = .next { s with
      codec := { s.codec with decRawI := raw }, result := .isEmpty (decide (raw.toNat % 2 = 0)) } ∧
    exec (.isBranch raw) s = .next { s with
      codec := { s.codec with decRawI := raw },
      result := .isBranch (decide (raw.toNat % 2 = 1 ∧ raw.toNat / 2 % 8 = 0)) } ∧
    exec (.isLeaf raw) s = .next { s with
      codec := { s.codec with decRawI := raw },
      result := .isLeaf (decide (raw.toNat % 2 = 1 ∧ raw.toNat / 2 % 8 ≠ 0)) }

/-- R106: exactly one of the three outputs is 1, whatever is on `dec_raw_i`. -/
def Obligations.ExactlyOneClassificationHolds : Prop :=
  ∀ s : State,
    [decIsEmptyO s, decIsBranchO s, decIsLeafO s].count true = 1

/-- R107: the PPN, the offset, the range assertion and the alignment flag. -/
def Obligations.PaToPpnSplitsTheAddress : Prop :=
  (∀ s : State, (paPpnO s).toNat = s.codec.paI.toNat / 2 ^ 12 % 2 ^ 44 ∧ (paOffO s).toNat = s.codec.paI.toNat % 2 ^ 12 ∧
    (paErrO s = true ↔ s.platform.debugAssert = true ∧ 2 ^ 56 ≤ s.codec.paI.toNat) ∧
    (paUnalO s = true ↔ s.codec.paI.toNat % 2 ^ 12 ≠ 0)) ∧
  (∀ (pa : Word) (s : State), pa.toNat < 2 ^ 56 →
    ∃ (ppn : Ppn) (off : Off), ppn.toNat = pa.toNat / 2 ^ 12 ∧ off.toNat = pa.toNat % 2 ^ 12 ∧
      exec (.paToPpn pa) s = .next { s with
        codec := { s.codec with paI := pa },
        result := .paToPpn ppn off false (decide (pa.toNat % 2 ^ 12 ≠ 0)) }) ∧
  (∀ (pa : Word) (s : State), 2 ^ 56 ≤ pa.toNat → exec (.paToPpn pa) s = .fault .paRange)

/-- R108: the address is the PPN above the offset. -/
def Obligations.PpnToPaConcatenates : Prop :=
  ∀ (ppn : Ppn) (off : Off) (s : State), ∃ pa : Pa, pa.toNat = ppn.toNat * 2 ^ 12 + off.toNat ∧
    exec (.ppnToPa ppn off) s = .next { s with
      codec := { s.codec with catPpnI := ppn, catOffI := off }, result := .ppnToPa pa }

/-- R109, through the operations: `DECODE` after `ENCODE`, `ENCODE` after `DECODE`, `PPN_TO_PA` after `PA_TO_PPN`. -/
def Obligations.CodecRoundTrips : Prop :=
  (∀ (s : State) (ppn : Word) (flags : Flags), ppn.toNat < 2 ^ 44 →
    ∃ t u raw, exec (.encode ppn flags) s = .next t ∧ t.result = .encode raw false ∧
      exec (.decode raw) t = .next u ∧ u.result = .decode (ppn.setWidth 44) flags) ∧
  (∀ (s : State) (raw : Word), ∃ t u ppn flags, exec (.decode raw) s = .next t ∧ t.result = .decode ppn flags ∧
    exec (.encode (ppn.setWidth 64) flags) t = .next u ∧ u.result = .encode (raw &&& 0x003FFFFFFFFFFFFF) false) ∧
  (∀ (s : State) (pa : Pa), ∃ t u ppn off unal, exec (.paToPpn (pa.setWidth 64)) s = .next t ∧
    t.result = .paToPpn ppn off false unal ∧ exec (.ppnToPa ppn off) t = .next u ∧ u.result = .ppnToPa pa)

/-- R110: `kind_at` at each level, and its agreement with the codec's tests at levels 2 and 1. -/
def Obligations.KindAtQualifiesByLevel : Prop :=
  (∀ (raw : Word) (level : Nat), kindAt raw level =
    if raw.toNat % 2 = 0 then .empty
    else if raw.toNat / 2 % 8 ≠ 0 ∨ level = 0 then .leaf else .branch) ∧
  (∀ (raw : Word) (level : Nat), level = 1 ∨ level = 2 →
    (kindAt raw level = .empty ↔ pteIsEmpty raw = true) ∧ (kindAt raw level = .branch ↔ pteIsBranch raw = true) ∧
    (kindAt raw level = .leaf ↔ pteIsLeaf raw = true))

/-- 41_walker.md R130: the split, for every address. A 64-bit value whose bits 63:39 all equal bit 38 lies below 2^38 or
at 2^64 - 2^38 or above. -/
def Obligations.VaSplitDecomposesTheAddress : Prop :=
  ∀ (va : Word) (s : State), ∃ (v2 v1 v0 : Idx) (off : Off),
    v2.toNat = va.toNat / 2 ^ 30 % 512 ∧ v1.toNat = va.toNat / 2 ^ 21 % 512 ∧ v0.toNat = va.toNat / 2 ^ 12 % 512 ∧
    off.toNat = va.toNat % 2 ^ 12 ∧
    exec (.vaSplit va) s = .next { s with
      codec := { s.codec with vaI := va },
      result := .vaSplit (decide (va.toNat < 2 ^ 38 ∨ 2 ^ 64 - 2 ^ 38 ≤ va.toNat)) v2 v1 v0 off }

/-- R131: the canonical form is the sign extension of the low 39 bits. -/
def Obligations.CanonicalIsSignExtension : Prop :=
  ∀ va : Word, canonical va = true ↔ (va.extractLsb' 0 39).signExtend 64 = va

/-- 10_state.md R29: "the host's use of the codec ports never disturbs a walk", in any state of a walk. -/
def Obligations.CodecUseNeverDisturbsAWalk : Prop :=
  (∀ (i : Instr) (s t : State), i.opid.toNat ≤ 7 → exec i s = .next t →
    t.walker = s.walker ∧ t.pins = s.pins ∧ t.reqWaiting = s.reqWaiting ∧ t.mem = s.mem ∧
    t.readSeen = s.readSeen ∧ t.lateReqs = s.lateReqs ∧
    allocatorSame s t ∧ t.resetDraws = s.resetDraws ∧ t.platform = s.platform ∧ t.host = s.host ∧ t.txns = s.txns) ∧
  (∀ (c : CodecIn) (s : State), perform (.driveCodec c) s = .next { s with codec := c })

/-! ### Memory and addresses -/

/-- 20_memory.md R53: the address of an entry, and its two corollaries. -/
def Obligations.EntryAddressIsNodePlusIndex : Prop :=
  ∀ (node : Ppn) (idx : Idx), (entryPa node idx).toNat = node.toNat * 4096 + idx.toNat * 8 ∧
    (entryPa node idx).toNat % 8 = 0

/-- R52, 30_encoding.md R96: a host write stores the word's bytes little-endian, changes no other byte, and a host read
of the same place gives the word back; bytes are written and read one at a time too. That a host read is served in every
state of the walker is the model's choice (log entry 18), and so is the one-byte access (log entry 16). Beside memory a
host write changes what the model notes of a read outstanding (log entry 14). -/
def Obligations.HostWordsAreLittleEndian : Prop :=
  (∀ (s : State) (pa : Pa) (v : Word), memWf s.mem = true → pa.toNat + 8 ≤ 2 ^ 56 →
    ∃ t, perform (.hostWrite pa v) s = .next t ∧ t = { s with mem := t.mem, readSeen := t.readSeen } ∧
      (∀ a, memByte t.mem a =
        if pa.toNat ≤ a ∧ a < pa.toNat + 8 then BitVec.ofNat 8 (v.toNat / 2 ^ (8 * (a - pa.toNat))) else memByte s.mem a) ∧
      perform (.hostRead pa) t = .next { t with result := .hostWord v } ∧
      (∀ i : Nat, i < 8 → ∀ pb : Pa, pb.toNat = pa.toNat + i →
        perform (.hostReadByte pb) t = .next { t with result := .hostByte (BitVec.ofNat 8 (v.toNat / 2 ^ (8 * i))) })) ∧
  (∀ (s : State) (pa : Pa) (b : Byte), memWf s.mem = true →
    ∃ t, perform (.hostWriteByte pa b) s = .next t ∧ t = { s with mem := t.mem, readSeen := t.readSeen } ∧
      ∀ a, memByte t.mem a = if a = pa.toNat then b else memByte s.mem a)

/-- R50: there is no byte past the 56-bit space, and a host access that would reach one stops (the model's choice, log
entry 16). -/
def Obligations.HostAccessPastTheEndFaults : Prop :=
  ∀ (s : State) (pa : Pa) (v : Word), 2 ^ 56 < pa.toNat + 8 →
    perform (.hostWrite pa v) s = .fault .outsideAddressSpace ∧ perform (.hostRead pa) s = .fault .outsideAddressSpace

/-! ### The no-create walk -/

/-- 41_walker.md R133, line by line: the response, the transactions and what stays, for an idle walker and admitted
entries. -/
def Obligations.WalkNcFollowsItsPseudocode : Prop :=
  ∀ (s : State) (va : Word) (root : Ppn), s.walker.st = .idle →
    (canonical va = false → ∃ t, exec (.walkNc va root) s = .next t ∧ answered t .invalidAddress 3 0 0 ∧ t.txns = [] ∧
      t.mem = s.mem ∧ allocatorSame s t ∧ walkKeeps s t) ∧
    (canonical va = true → ∀ raw2 : Word, entryIs s root (vpnAt va 2) raw2 →
      (pteIsEmpty raw2 = true → ∃ t, exec (.walkNc va root) s = .next t ∧ answered t .notMapped 2 root (vpnAt va 2) ∧
        t.txns = [.read (entryPa root (vpnAt va 2)) raw2] ∧ t.mem = s.mem ∧ allocatorSame s t ∧ walkKeeps s t) ∧
      (pteIsLeaf raw2 = true → ∃ t, exec (.walkNc va root) s = .next t ∧
        answered t .blockedBySuperpage 2 root (vpnAt va 2) ∧
        t.txns = [.read (entryPa root (vpnAt va 2)) raw2] ∧ t.mem = s.mem ∧ allocatorSame s t ∧ walkKeeps s t) ∧
      (pteIsBranch raw2 = true → ∀ raw1 : Word, entryIs s (ptePpn raw2) (vpnAt va 1) raw1 →
        ∃ t, exec (.walkNc va root) s = .next t ∧
          t.txns = [.read (entryPa (ptePpn raw2) (vpnAt va 1)) raw1, .read (entryPa root (vpnAt va 2)) raw2] ∧
          t.mem = s.mem ∧ allocatorSame s t ∧ walkKeeps s t ∧
          (pteIsEmpty raw1 = true → answered t .notMapped 1 (ptePpn raw2) (vpnAt va 1)) ∧
          (pteIsLeaf raw1 = true → answered t .blockedBySuperpage 1 (ptePpn raw2) (vpnAt va 1)) ∧
          (pteIsBranch raw1 = true → answered t .ok 0 (ptePpn raw1) (vpnAt va 0))))

/-- R139: whatever its outcome, a `WALK.NC` writes no memory and makes no allocation request. Its frame, which is more than
R139: of the walker's registers it latches the request and leaves `new_q` and `zi_q`; the levels on the walker's inputs
are let go, which is the model's choice (log entry 11), and a read made forgets the values noted of one before (log
entry 14). -/
def Obligations.WalkNcLeavesMemoryAndAllocator : Prop :=
  ∀ (s t : State) (va : Word) (root : Ppn), s.walker.st = .idle → exec (.walkNc va root) s = .next t →
    t.mem = s.mem ∧ (∀ a, memByte t.mem a = memByte s.mem a) ∧ allocatorSame s t ∧ walkKeeps s t ∧
    (∀ x ∈ t.txns, isReadTxn x = true) ∧
    t.walker.vaQ = va ∧ t.walker.createQ = false ∧ t.walker.newQ = s.walker.newQ ∧ t.walker.ziQ = s.walker.ziQ ∧
    t.pins = .quiet ∧ t.reqWaiting = false ∧
    t.readSeen = if canonical va then [] else s.readSeen

/-! ### The create walk -/

/-- R134 on a path whose two entries are branches (60_exceptions.md R181): two reads, no allocation, no write. -/
def Obligations.WalkCOnAnExistingPath : Prop :=
  ∀ (s : State) (va : Word) (root : Ppn) (raw2 raw1 : Word), s.walker.st = .idle → canonical va = true →
    entryIs s root (vpnAt va 2) raw2 → pteIsBranch raw2 = true →
    entryIs s (ptePpn raw2) (vpnAt va 1) raw1 → pteIsBranch raw1 = true →
    ∃ t, exec (.walkC va root) s = .next t ∧ answered t .ok 0 (ptePpn raw1) (vpnAt va 0) ∧
      t.txns = [.read (entryPa (ptePpn raw2) (vpnAt va 1)) raw1, .read (entryPa root (vpnAt va 2)) raw2] ∧
      t.mem = s.mem ∧ allocatorSame s t ∧ walkKeeps s t

/-- R134, R135, 20_memory.md R60 on an empty level-2 entry with two `Ok` answers: the transactions in order (each frame
zeroed at ascending index before the entry that names it is written), the memory byte by byte, the response. -/
def Obligations.WalkCCreatesBothNodes : Prop :=
  ∀ (s s2 s1 : State) (va : Word) (root f2 f1 : Ppn) (raw2 : Word), s.walker.st = .idle → memWf s.mem = true →
    canonical va = true → entryIs s root (vpnAt va 2) raw2 → pteIsEmpty raw2 = true →
    nextAnswer s = some (.ok f2, s2) → nextAnswer s2 = some (.ok f1, s1) → allAdmitted s → f2 ≠ root →
    ∃ t, exec (.walkC va root) s = .next t ∧ answered t .ok 0 f1 (vpnAt va 0) ∧ allocatorSame s1 t ∧ walkKeeps s t ∧
      t.txns.reverse =
        [.read (entryPa root (vpnAt va 2)) raw2, .alloc (.ok f2)] ++
        (List.range 512).map (fun i => .write (entryPa f2 (BitVec.ofNat 9 i)) 0) ++
        [.write (entryPa root (vpnAt va 2)) (branchEntry f2), .read (entryPa f2 (vpnAt va 1)) 0, .alloc (.ok f1)] ++
        (List.range 512).map (fun i => .write (entryPa f1 (BitVec.ofNat 9 i)) 0) ++
        [.write (entryPa f2 (vpnAt va 1)) (branchEntry f1)] ∧
      ∀ a, memByte t.mem a =
        if inEntry (entryPa f2 (vpnAt va 1)) a then
          BitVec.ofNat 8 ((f1.toNat * 2 ^ 10 + 1) / 2 ^ (8 * (a - (entryPa f2 (vpnAt va 1)).toNat)))
        else if inFrame f1 a then 0
        else if inEntry (entryPa root (vpnAt va 2)) a then
          BitVec.ofNat 8 ((f2.toNat * 2 ^ 10 + 1) / 2 ^ (8 * (a - (entryPa root (vpnAt va 2)).toNat)))
        else if inFrame f2 a then 0
        else memByte s.mem a

/-- R134 on a branch at level 2 and an empty entry at level 1 with an `Ok` answer: one node is made. -/
def Obligations.WalkCCreatesTheLevelOneTarget : Prop :=
  ∀ (s s1 : State) (va : Word) (root f : Ppn) (raw2 raw1 : Word), s.walker.st = .idle → memWf s.mem = true →
    canonical va = true → entryIs s root (vpnAt va 2) raw2 → pteIsBranch raw2 = true →
    entryIs s (ptePpn raw2) (vpnAt va 1) raw1 → pteIsEmpty raw1 = true →
    nextAnswer s = some (.ok f, s1) → frameAdmitted s.platform f = true →
    ∃ t, exec (.walkC va root) s = .next t ∧ answered t .ok 0 f (vpnAt va 0) ∧ allocatorSame s1 t ∧ walkKeeps s t ∧
      t.txns.reverse =
        [.read (entryPa root (vpnAt va 2)) raw2, .read (entryPa (ptePpn raw2) (vpnAt va 1)) raw1, .alloc (.ok f)] ++
        (List.range 512).map (fun i => .write (entryPa f (BitVec.ofNat 9 i)) 0) ++
        [.write (entryPa (ptePpn raw2) (vpnAt va 1)) (branchEntry f)] ∧
      ∀ a, memByte t.mem a =
        if inEntry (entryPa (ptePpn raw2) (vpnAt va 1)) a then
          BitVec.ofNat 8 ((f.toNat * 2 ^ 10 + 1) / 2 ^ (8 * (a - (entryPa (ptePpn raw2) (vpnAt va 1)).toNat)))
        else if inFrame f a then 0
        else memByte s.mem a

/-- 60_exceptions.md R185 and 41_walker.md R137: the allocator refuses at level 2, at level 1 of an existing path, and at
level 1 after the walk made the node at level 2, which stays installed and fully zeroed. -/
def Obligations.OutOfMemoryLeavesTheTreeValid : Prop :=
  (∀ (s s2 : State) (va : Word) (root : Ppn) (raw2 : Word), s.walker.st = .idle → canonical va = true →
    entryIs s root (vpnAt va 2) raw2 → pteIsEmpty raw2 = true → nextAnswer s = some (.outOfMemory, s2) →
    ∃ t, exec (.walkC va root) s = .next t ∧ answered t .outOfMemory 2 root (vpnAt va 2) ∧ t.mem = s.mem ∧
      t.txns = [.alloc .outOfMemory, .read (entryPa root (vpnAt va 2)) raw2] ∧ allocatorSame s2 t ∧ walkKeeps s t) ∧
  (∀ (s s1 : State) (va : Word) (root : Ppn) (raw2 raw1 : Word), s.walker.st = .idle → canonical va = true →
    entryIs s root (vpnAt va 2) raw2 → pteIsBranch raw2 = true → entryIs s (ptePpn raw2) (vpnAt va 1) raw1 →
    pteIsEmpty raw1 = true → nextAnswer s = some (.outOfMemory, s1) →
    ∃ t, exec (.walkC va root) s = .next t ∧ answered t .outOfMemory 1 (ptePpn raw2) (vpnAt va 1) ∧ t.mem = s.mem ∧
      allocatorSame s1 t ∧ walkKeeps s t) ∧
  (∀ (s s2 s1 : State) (va : Word) (root f : Ppn) (raw2 : Word), s.walker.st = .idle → memWf s.mem = true →
    canonical va = true → entryIs s root (vpnAt va 2) raw2 → pteIsEmpty raw2 = true →
    nextAnswer s = some (.ok f, s2) → nextAnswer s2 = some (.outOfMemory, s1) → frameAdmitted s.platform f = true →
    f ≠ root →
    ∃ t, exec (.walkC va root) s = .next t ∧ answered t .outOfMemory 1 f (vpnAt va 1) ∧
      memWord t.mem (entryPa root (vpnAt va 2)).toNat = branchEntry f ∧ (∀ a, inFrame f a → memByte t.mem a = 0) ∧
      (∀ a, ¬inFrame f a → ¬inEntry (entryPa root (vpnAt va 2)) a → memByte t.mem a = memByte s.mem a) ∧
      allocatorSame s1 t ∧ walkKeeps s t)

/-- 41_walker.md R136: a `WALK.C` changes a byte only in a frame the allocator has just given it or in an entry it has
just read empty; the two entries it can install are the ones on the path. Its frame: the rest of the state outside the
walker and the allocator (that the levels on the walker's inputs are let go is the model's choice, log entry 11, and a
read made forgets the values noted of one before, log entry 14). -/
def Obligations.WalkCWritesOnlyNewFramesAndEmptySlots : Prop :=
  ∀ (s t : State) (va : Word) (root : Ppn), s.walker.st = .idle → memWf s.mem = true →
    exec (.walkC va root) s = .next t →
    walkKeeps s t ∧ t.walker.vaQ = va ∧ t.walker.createQ = true ∧ t.pins = .quiet ∧ t.reqWaiting = false ∧
    t.readSeen = (if canonical va then [] else s.readSeen) ∧ ∀ a, memByte t.mem a ≠ memByte s.mem a →
      (∃ f : Ppn, Txn.alloc (.ok f) ∈ t.txns ∧ inFrame f a) ∨
      (∃ (pa : Pa) (raw : Word), Txn.read pa raw ∈ t.txns ∧ pteIsEmpty raw = true ∧ inEntry pa a ∧
        (pa = entryPa root (vpnAt va 2) ∨ ∃ node : Ppn, pa = entryPa node (vpnAt va 1)))

/-! ### Both walks -/

/-- 60_exceptions.md R182: a non-canonical address ends either walk before any transaction. -/
def Obligations.NonCanonicalAddressIsRejectedFirst : Prop :=
  ∀ (s : State) (va : Word) (root : Ppn) (i : Instr), s.walker.st = .idle →
    2 ^ 38 ≤ va.toNat → va.toNat < 2 ^ 64 - 2 ^ 38 → i = .walkNc va root ∨ i = .walkC va root →
    ∃ t, exec i s = .next t ∧ t.result = .walk ⟨1, 3, 0, 0, 0⟩ ∧ t.walker.st = .idle ∧ t.txns = [] ∧ t.mem = s.mem ∧
      allocatorSame s t ∧ walkKeeps s t

/-- 60_exceptions.md R184: a leaf at level 2 or 1 ends either walk there; in every walk so ended the last transaction is
the read of that leaf, so nothing is written or allocated for it. -/
def Obligations.SuperpageBlocksBothWalks : Prop :=
  (∀ (s : State) (va : Word) (root : Ppn) (raw2 : Word) (i : Instr), s.walker.st = .idle → canonical va = true →
    i = .walkNc va root ∨ i = .walkC va root → entryIs s root (vpnAt va 2) raw2 → pteIsLeaf raw2 = true →
    ∃ t, exec i s = .next t ∧ answered t .blockedBySuperpage 2 root (vpnAt va 2) ∧ t.mem = s.mem ∧ allocatorSame s t) ∧
  (∀ (s : State) (va : Word) (root : Ppn) (raw2 raw1 : Word) (i : Instr), s.walker.st = .idle → canonical va = true →
    i = .walkNc va root ∨ i = .walkC va root → entryIs s root (vpnAt va 2) raw2 → pteIsBranch raw2 = true →
    entryIs s (ptePpn raw2) (vpnAt va 1) raw1 → pteIsLeaf raw1 = true →
    ∃ t, exec i s = .next t ∧ answered t .blockedBySuperpage 1 (ptePpn raw2) (vpnAt va 1) ∧ t.mem = s.mem ∧
      allocatorSame s t) ∧
  (∀ (s t : State) (va : Word) (root : Ppn) (i : Instr) (r : Response), i = .walkNc va root ∨ i = .walkC va root →
    exec i s = .next t → t.result = .walk r → r.status = statusCode .blockedBySuperpage →
    ∃ raw, t.txns.head? = some (.read r.slotPa raw) ∧ pteIsLeaf raw = true)

/-- 30_encoding.md R88, R89 and 60_exceptions.md R183, R185: which statuses, levels and slots a walk can report; no
`NOT_MAPPED` from `WALK.C`, no `OUT_OF_MEMORY` from `WALK.NC`. -/
def Obligations.WalkResponsesAreLegal : Prop :=
  ∀ (s t : State) (va : Word) (root : Ppn) (i : Instr), i = .walkNc va root ∨ i = .walkC va root →
    exec i s = .next t → t.walker.st = .idle ∧
    ∃ r : Response, t.result = .walk r ∧ r.slotPa = entryPa r.node r.index ∧
      ((r.status = 0 ∧ r.level = 0) ∨ (r.status = 1 ∧ r.level = 3 ∧ r.node = 0 ∧ r.index = 0) ∨
       (r.status = 2 ∧ (r.level = 2 ∨ r.level = 1) ∧ i = .walkNc va root) ∨
       (r.status = 3 ∧ (r.level = 2 ∨ r.level = 1)) ∨
       (r.status = 4 ∧ (r.level = 2 ∨ r.level = 1) ∧ i = .walkC va root))

/-- 41_walker.md R138: the bounds on a walk's transactions. -/
def Obligations.WalkTransactionBounds : Prop :=
  (∀ (s t : State) (va : Word) (root : Ppn), exec (.walkC va root) s = .next t →
    t.txns.countP isReadTxn ≤ 2 ∧ t.txns.countP isAllocTxn ≤ 2 ∧ t.txns.countP isWriteTxn ≤ 1026 ∧
    t.txns.countP isReadTxn + t.txns.countP isWriteTxn ≤ 1028) ∧
  (∀ (s t : State) (va : Word) (root : Ppn), exec (.walkNc va root) s = .next t →
    t.txns.length ≤ 2 ∧ t.txns.countP isReadTxn = t.txns.length) ∧
  (∀ (s t : State) (va : Word) (root : Ppn) (i : Instr) (r : Response), i = .walkNc va root ∨ i = .walkC va root →
    exec i s = .next t → t.result = .walk r → r.status = statusCode .invalidAddress → t.txns = [])

/-- Both walks complete from every state that meets the invariant and whose memory serves every address, a walk in
progress being waited for (R152), with whatever answers a free allocator gives (20_memory.md R66). The environment that
stalls nothing, in which the operation runs and the walk in progress ends, is the model's choice (log entry 11). -/
def Obligations.WalksCompleteOnAdmittedMemory : Prop :=
  ∀ (s : State) (va : Word) (root : Ppn), Invariant s → allAdmitted s → s.allocScript = none →
    (∃ t, exec (.walkNc va root) s = .next t ∧ t.walker.st = .idle) ∧
    (∃ t, exec (.walkC va root) s = .next t ∧ t.walker.st = .idle)

/-- 41_walker.md R131, 90_conflicts.md C7: a walk ignores `va[11:0]`. Two addresses of one page give the same run, up to
the address latched. -/
def Obligations.WalksIgnoreThePageOffset : Prop :=
  ∀ (s t : State) (va va' : Word) (root : Ppn), s.walker.st = .idle → va.toNat / 4096 = va'.toNat / 4096 →
    (exec (.walkNc va root) s = .next t →
      exec (.walkNc va' root) s = .next { t with walker := { t.walker with vaQ := va' } }) ∧
    (exec (.walkC va root) s = .next t →
      exec (.walkC va' root) s = .next { t with walker := { t.walker with vaQ := va' } })

/-- 20_memory.md R57, 92 D31: a walk whose first entry the memory does not serve waits for ever. -/
def Obligations.UnadmittedEntryLeavesTheWalkStuck : Prop :=
  ∀ (s : State) (va : Word) (root : Ppn), s.walker.st = .idle → canonical va = true →
    admits s.platform (entryPa root (vpnAt va 2)) = false →
    exec (.walkNc va root) s = .fault .memNeverAnswers ∧ exec (.walkC va root) s = .fault .memNeverAnswers

/-- 41_walker.md R151: the FSM, clocked from the request handshake by an environment that stalls nothing, makes the walk
that the operation makes: the same transactions in the same order, the same registers, memory and response, or the same
stop (the operation's environment: log entry 11). The memory is of the one form, where zeroing a frame at once and by 512 writes are the same list. -/
def Obligations.FsmAgreesWithTheWalkOperations : Prop :=
  ∀ (s : State) (va : Word) (root : Ppn), s.walker.st = .idle → s.reqWaiting = false → memWf s.mem = true →
    releasePins (andThen (clockEdge (requestPins va root false) s) awaitIdle) = exec (.walkNc va root) s ∧
    releasePins (andThen (clockEdge (requestPins va root true) s) awaitIdle) = exec (.walkC va root) s

/-- 95_test_vectors.md S3 (from 41_walker.md R133, R134 and 40_pte_codec.md R109): after `LEAF.SET` on an empty root, every
address of the page walks to the slot that was set, and the slot decodes to the frame and flags given. -/
def Obligations.LeafSetThenWalkFindsTheLeaf : Prop :=
  ∀ (s s2 s1 : State) (va va' : Word) (root f2 f1 : Ppn) (pa : Word) (flags : Flags), s.walker.st = .idle →
    memWf s.mem = true → canonical va = true → va'.toNat / 4096 = va.toNat / 4096 →
    (∀ idx, memWord s.mem (entryPa root idx).toNat = 0) → allAdmitted s →
    nextAnswer s = some (.ok f2, s2) → nextAnswer s2 = some (.ok f1, s1) → f2 ≠ root → f1 ≠ root → f1 ≠ f2 →
    pa.toNat < 2 ^ 56 →
    ∃ u v w, perform (.leafSet va root pa flags) s = .next u ∧ exec (.walkNc va' root) u = .next v ∧
      answered v .ok 0 f1 (vpnAt va 0) ∧
      exec (.decode (memWord v.mem (entryPa f1 (vpnAt va 0)).toNat)) v = .next w ∧
      w.result = .decode (pa.extractLsb' 12 44) flags

/-! ### The FSM, edge by edge -/

/-- R140, R141: the outputs in `IDLE` and `CHECK`, the request handshake and the check of the address. The handshake clears
the model's own observer `txns` (log entry 9). -/
def Obligations.RequestIsLatchedThenChecked : Prop :=
  (∀ s : State, s.pins.rst = false →
    (s.walker.st = .idle →
      reqReady s = true ∧ rspValid s = false ∧ memReqValid s = false ∧ allocReqValid s = false) ∧
    (s.walker.st = .check → silent s)) ∧
  (∀ (p : Pins) (s : State), s.walker.st = .idle → p.rst = false → protocolBroken p s = false → p.reqValid = true →
    clockEdge p s = .next { s with
      pins := p, reqWaiting := false, txns := [],
      walker := { s.walker with
        vaQ := p.reqVa, createQ := p.reqCreate, nodeQ := p.reqRootPpn, lvlQ := 2, st := .check } }) ∧
  (∀ (p : Pins) (s : State), s.walker.st = .check → p.rst = false → protocolBroken p s = false →
    clockEdge p s = .next { s with
      pins := p, reqWaiting := p.reqValid,
      walker := if canonical s.walker.vaQ then { s.walker with st := .rdReq }
        else { s.walker with statusQ := 1, rlvlQ := 3, rnodeQ := 0, ridxQ := 0, st := .rsp } })

/-- R142, R144: in `RD_REQ` and `AL_REQ` the walker offers its request until it is accepted and then awaits the answer. That
the model notes the values of the word read from the acceptance on (`readSeen`), and which later answers it so admits, is
its reading (log entry 14, DEDUCED), and no part of R142. -/
def Obligations.AcceptedRequestsAreAwaited : Prop :=
  ∀ (p : Pins) (s : State), s.pins.rst = false → p.rst = false → protocolBroken p s = false →
    (s.walker.st = .rdReq →
      memReq s = some ⟨false, entryPa s.walker.nodeQ (vpn s.walker.vaQ s.walker.lvlQ), 0⟩ ∧
      (p.memReqReady = true → clockEdge p s = .next { s with
        pins := p, reqWaiting := p.reqValid, readSeen := [], walker := { s.walker with st := .rdWait } })) ∧
    (s.walker.st = .alReq →
      allocReqValid s = true ∧
      (p.allocReqReady = true → clockEdge p s =
        .next { s with pins := p, reqWaiting := p.reqValid, walker := { s.walker with st := .alWait } }))

/-- R143, R150: what the walker does with the entry the memory returns, at levels 2 and 1. The memory returns a value the
word has held since the request was accepted (20_memory.md R55, R57, R62). -/
def Obligations.ReadEntryDecidesTheWalk : Prop :=
  ∀ (p : Pins) (s : State), s.walker.st = .rdWait → p.rst = false → protocolBroken p s = false →
    p.memRspValid = true → s.walker.lvlQ = 2 ∨ s.walker.lvlQ = 1 →
    admits s.platform (entryPa s.walker.nodeQ (vpn s.walker.vaQ s.walker.lvlQ)) = true →
    p.memRspRdata = memWord s.mem (entryPa s.walker.nodeQ (vpn s.walker.vaQ s.walker.lvlQ)).toNat ∨
      p.memRspRdata ∈ s.readSeen →
    let r := p.memRspRdata
    let w : Walker := { s.walker with entQ := r }
    let idx := vpn s.walker.vaQ s.walker.lvlQ
    silent s ∧ clockEdge p s = .next { s with
      pins := p, reqWaiting := p.reqValid, txns := .read (entryPa s.walker.nodeQ idx) r :: s.txns,
      walker :=
        if r.toNat % 2 = 0 then
          if s.walker.createQ then { w with st := .alReq }
          else { w with statusQ := 2, rlvlQ := w.lvlQ, rnodeQ := w.nodeQ, ridxQ := idx, st := .rsp }
        else if r.toNat / 2 % 8 ≠ 0 then
          { w with statusQ := 3, rlvlQ := w.lvlQ, rnodeQ := w.nodeQ, ridxQ := idx, st := .rsp }
        else if w.lvlQ = 2 then { w with nodeQ := ptePpn r, lvlQ := 1, st := .rdReq }
        else { w with
          nodeQ := ptePpn r, lvlQ := 0, statusQ := 0, rlvlQ := 0, rnodeQ := ptePpn r, ridxQ := vpnAt w.vaQ 0, st := .rsp } }

/-- R145: the allocator's answer. -/
def Obligations.AllocatorAnswerStartsTheZeroFill : Prop :=
  ∀ (p : Pins) (s : State), s.walker.st = .alWait → p.rst = false → protocolBroken p s = false →
    p.allocRspValid = true →
    silent s ∧ clockEdge p s = .next (if p.allocRspOk then { s with
        pins := p, reqWaiting := p.reqValid, txns := .alloc (.ok p.allocRspPpn) :: s.txns,
        walker := { s.walker with newQ := p.allocRspPpn, ziQ := 0, st := .zrReq } }
      else { s with
        pins := p, reqWaiting := p.reqValid, txns := .alloc .outOfMemory :: s.txns,
        walker := { s.walker with
          statusQ := 4, rlvlQ := s.walker.lvlQ, rnodeQ := s.walker.nodeQ,
          ridxQ := vpn s.walker.vaQ s.walker.lvlQ, st := .rsp } })

/-- R146: zero write number `zi_q` is offered until accepted; completed, it counts, and the 512th leads to the install.
That the write reaches memory at the edge of its response, and not before, is the model's choice (log entry 14). -/
def Obligations.ZeroFillCountsToTheInstall : Prop :=
  ∀ (p : Pins) (s : State), s.pins.rst = false → p.rst = false → protocolBroken p s = false →
    s.walker.ziQ.toNat < 512 →
    let slot := entryPa s.walker.newQ (s.walker.ziQ.setWidth 9)
    slot.toNat = s.walker.newQ.toNat * 4096 + s.walker.ziQ.toNat * 8 ∧
    (s.walker.st = .zrReq → memReq s = some ⟨true, slot, 0⟩ ∧
      (p.memReqReady = true → clockEdge p s =
        .next { s with pins := p, reqWaiting := p.reqValid, walker := { s.walker with st := .zrWait } })) ∧
    (s.walker.st = .zrWait → silent s ∧
      (p.memRspValid = true → admits s.platform slot = true → clockEdge p s = .next { s with
        pins := p, reqWaiting := p.reqValid, mem := memSetWord s.mem slot.toNat 0, txns := .write slot 0 :: s.txns,
        walker := { s.walker with
          ziQ := s.walker.ziQ + 1, st := if s.walker.ziQ.toNat = 511 then .inReq else .zrReq } }))

/-- R147, R150: the install is offered until accepted; completed, it has written the branch entry and the walker descends
into the new node. That the write reaches memory at the edge of its response is the model's choice (log entry 14). -/
def Obligations.InstallWritesTheBranchAndDescends : Prop :=
  ∀ (p : Pins) (s : State), s.pins.rst = false → p.rst = false → protocolBroken p s = false →
    s.walker.lvlQ = 2 ∨ s.walker.lvlQ = 1 →
    let slot := entryPa s.walker.nodeQ (vpn s.walker.vaQ s.walker.lvlQ)
    ∃ raw : Word, raw.toNat = s.walker.newQ.toNat * 2 ^ 10 + 1 ∧
    (s.walker.st = .inReq → memReq s = some ⟨true, slot, raw⟩ ∧
      (p.memReqReady = true → clockEdge p s =
        .next { s with pins := p, reqWaiting := p.reqValid, walker := { s.walker with st := .inWait } })) ∧
    (s.walker.st = .inWait → silent s ∧
      (p.memRspValid = true → admits s.platform slot = true → clockEdge p s = .next { s with
        pins := p, reqWaiting := p.reqValid, mem := memSetWord s.mem slot.toNat raw, txns := .write slot raw :: s.txns,
        walker :=
          if s.walker.lvlQ = 2 then { s.walker with nodeQ := s.walker.newQ, lvlQ := 1, st := .rdReq }
          else { s.walker with
            nodeQ := s.walker.newQ, lvlQ := 0, statusQ := 0, rlvlQ := 0, rnodeQ := s.walker.newQ,
            ridxQ := vpnAt s.walker.vaQ 0, st := .rsp } }))

/-- R149, 10_state.md R26, R34: the response is offered in `RSP` until the host takes it, and the walker is then idle. -/
def Obligations.ResponseIsHeldUntilTaken : Prop :=
  ∀ (p : Pins) (s : State), s.walker.st = .rsp → s.pins.rst = false → p.rst = false → protocolBroken p s = false →
    rspOut s = some ⟨s.walker.statusQ, s.walker.rlvlQ, s.walker.rnodeQ, s.walker.ridxQ,
      entryPa s.walker.rnodeQ s.walker.ridxQ⟩ ∧
    (p.rspReady = true → clockEdge p s = .next { s with
      pins := p, reqWaiting := p.reqValid, walker := { s.walker with st := .idle },
      result := .walk ⟨s.walker.statusQ, s.walker.rlvlQ, s.walker.rnodeQ, s.walker.ridxQ,
        entryPa s.walker.rnodeQ s.walker.ridxQ⟩ }) ∧
    (p.rspReady = false → ∃ t, clockEdge p s = .next t ∧ t.walker = s.walker ∧ rspValid t = true ∧
      rspOut t = some ⟨s.walker.statusQ, s.walker.rlvlQ, s.walker.rnodeQ, s.walker.ridxQ,
        entryPa s.walker.rnodeQ s.walker.ridxQ⟩)

/-- 41_walker.md section 3: "In every state, an edge at which the named condition does not hold leaves every register
unchanged (the walker waits)". That memory waits with it in `ZR_WAIT` and `IN_WAIT` is the model's choice (log entry 14). -/
def Obligations.StalledEdgesChangeNothing : Prop :=
  ∀ (p : Pins) (s : State), p.rst = false → protocolBroken p s = false →
    (s.walker.st = .idle ∧ p.reqValid = false) ∨ (s.walker.st = .rdReq ∧ p.memReqReady = false) ∨
    (s.walker.st = .rdWait ∧ p.memRspValid = false) ∨ (s.walker.st = .alReq ∧ p.allocReqReady = false) ∨
    (s.walker.st = .alWait ∧ p.allocRspValid = false) ∨ (s.walker.st = .zrReq ∧ p.memReqReady = false) ∨
    (s.walker.st = .zrWait ∧ p.memRspValid = false) ∨ (s.walker.st = .inReq ∧ p.memReqReady = false) ∨
    (s.walker.st = .inWait ∧ p.memRspValid = false) ∨ (s.walker.st = .rsp ∧ p.rspReady = false) →
    ∃ b, clockEdge p s = .next { s with pins := p, reqWaiting := b }

/-- 60_exceptions.md R189 and 70_reset_and_hazards.md R201: the three protocol violations, and no other edge, raise
`Fault(Protocol)`: a memory response that answers no request of the walker's state (none is outstanding, or it is the late
response to a request of before a reset, log entry 13), an allocator answer to none, and a changed request (log entry 7). -/
def Obligations.ProtocolFaultsAreExactlyTheThree : Prop :=
  ∀ (p : Pins) (s : State), clockEdge p s = .fault .protocol ↔
    (p.memRspValid = true ∧
      ((s.walker.st ≠ .rdWait ∧ s.walker.st ≠ .zrWait ∧ s.walker.st ≠ .inWait) ∨
       ∃ r ∈ s.lateReqs, admits s.platform r.addr = true)) ∨
    (p.allocRspValid = true ∧ s.walker.st ≠ .alWait) ∨
    (s.reqWaiting = true ∧ p.reqValid = true ∧
      ¬(p.reqVa = s.pins.reqVa ∧ p.reqRootPpn = s.pins.reqRootPpn ∧ p.reqCreate = s.pins.reqCreate))

/-- 10_state.md R33: the four valid and ready outputs are functions of `st`, all 0 under reset; the memory request is a
function of the registers while `mem_req_valid` is 1, and there is none otherwise. -/
def Obligations.HandshakeOutputsFollowTheFsm : Prop :=
  ∀ s : State,
    (reqReady s = true ↔ s.walker.st = .idle ∧ s.pins.rst = false) ∧
    (rspValid s = true ↔ s.walker.st = .rsp ∧ s.pins.rst = false) ∧
    (memReqValid s = true ↔
      (s.walker.st = .rdReq ∨ s.walker.st = .zrReq ∨ s.walker.st = .inReq) ∧ s.pins.rst = false) ∧
    (allocReqValid s = true ↔ s.walker.st = .alReq ∧ s.pins.rst = false) ∧
    (memReqValid s = false → memReq s = none) ∧
    (memReqValid s = true → s.walker.st = .rdReq →
      memReq s = some ⟨false, entryPa s.walker.nodeQ (vpn s.walker.vaQ s.walker.lvlQ), 0⟩) ∧
    (memReqValid s = true → s.walker.st = .zrReq →
      memReq s = some ⟨true, entryPa s.walker.newQ (s.walker.ziQ.setWidth 9), 0⟩) ∧
    (memReqValid s = true → s.walker.st = .inReq → ∃ raw : Word, raw.toNat = s.walker.newQ.toNat * 2 ^ 10 + 1 ∧
      memReq s = some ⟨true, entryPa s.walker.nodeQ (vpn s.walker.vaQ s.walker.lvlQ), raw⟩)

/-- 30_encoding.md R90: the three kinds of memory request the walker produces, in every state that meets the invariant. -/
def Obligations.MemoryRequestsAreOfThreeKinds : Prop :=
  ∀ (s : State) (r : MemReq), Invariant s → memReq s = some r →
    r.addr.toNat % 8 = 0 ∧
    ((r.we = false ∧ r.addr = entryPa s.walker.nodeQ (vpn s.walker.vaQ s.walker.lvlQ) ∧ r.wdata = 0) ∨
     (r.we = true ∧ r.addr.toNat / 4096 = s.walker.newQ.toNat ∧
       r.addr.toNat = s.walker.newQ.toNat * 4096 + s.walker.ziQ.toNat * 8 ∧ r.wdata = 0) ∨
     (r.we = true ∧ r.addr = entryPa s.walker.nodeQ (vpn s.walker.vaQ s.walker.lvlQ) ∧
       r.wdata.toNat = s.walker.newQ.toNat * 2 ^ 10 + 1 ∧ s.walker.entQ.toNat % 2 = 0 ∧ s.walker.createQ = true))

/-- 41_walker.md R136, edge by edge: memory changes only when a zero write into the new frame or the install into the entry
read empty completes. That it changes at the edge of the response and not before is the model's choice (log entry 14). -/
def Obligations.EdgesWriteOnlyNewFrameOrEmptySlot : Prop :=
  ∀ (p : Pins) (s t : State) (a : Nat), Invariant s → clockEdge p s = .next t → memByte t.mem a ≠ memByte s.mem a →
    p.memRspValid = true ∧ s.walker.createQ = true ∧ s.walker.entQ.toNat % 2 = 0 ∧
    ((s.walker.st = .zrWait ∧ inFrame s.walker.newQ a) ∨
     (s.walker.st = .inWait ∧ inEntry (entryPa s.walker.nodeQ (vpn s.walker.vaQ s.walker.lvlQ)) a))

/-! ### Reset -/

/-- 70_reset_and_hazards.md R200, R202: right after reset the walker is idle and offers nothing but `req_ready`. -/
def Obligations.ResetStateIsIdle : Prop :=
  State.reset.walker.st = .idle ∧ reqReady State.reset = true ∧ rspValid State.reset = false ∧
    memReqValid State.reset = false ∧ allocReqValid State.reset = false

/-- R200: an edge with `rst` = 1 puts the walker in `IDLE` from every state, the four outputs are 0 while it lasts, and
the codec is unaffected; an edge without it and without a request then finds `req_ready` = 1 (the other registers:
log entry 5). -/
def Obligations.ResetEdgeReachesIdle : Prop :=
  ∀ (p : Pins) (s : State), p.rst = true → protocolBroken p s = false → answersUnadmitted p s = false →
    ∃ t, clockEdge p s = .next t ∧ t.walker.st = .idle ∧ reqReady t = false ∧ rspValid t = false ∧
      memReqValid t = false ∧ allocReqValid t = false ∧ t.codec = s.codec ∧ t.host = s.host ∧ t.platform = s.platform ∧
      allocatorSame s t ∧ t.result = s.result ∧
      ∀ q : Pins, q.rst = false → q.reqValid = false → protocolBroken q t = false →
        ∃ u, clockEdge q t = .next u ∧ reqReady u = true

/-- R201: a reset edge undoes nothing and writes nothing; a write in flight and not answered may still be performed later,
or never; and a late response that reaches the walker, whatever it does then, is a protocol fault. How the model holds
such requests, and tells a late response by its place in the memory's order, is log entry 13. -/
def Obligations.ResetAbandonsTheWalk : Prop :=
  (∀ (p : Pins) (s t : State), p.rst = true → p.memRspValid = false → clockEdge p s = .next t →
    t.mem = s.mem ∧
    (s.walker.st ≠ .rdWait → s.walker.st ≠ .zrWait → s.walker.st ≠ .inWait → t.lateReqs = s.lateReqs) ∧
    (s.walker.st = .rdWait → t.lateReqs = s.lateReqs ++
      [⟨false, entryPa s.walker.nodeQ (vpn s.walker.vaQ s.walker.lvlQ), 0⟩]) ∧
    (s.walker.st = .zrWait → t.lateReqs = s.lateReqs ++
      [⟨true, entryPa s.walker.newQ (s.walker.ziQ.setWidth 9), 0⟩]) ∧
    (s.walker.st = .inWait → t.lateReqs = s.lateReqs ++
      [⟨true, entryPa s.walker.nodeQ (vpn s.walker.vaQ s.walker.lvlQ), branchEntry s.walker.newQ⟩])) ∧
  (∀ (s : State) (r : MemReq) (l : List MemReq), s.lateReqs = r :: l →
    perform (.lateAnswer false) s = .next { s with lateReqs := l } ∧
    (r.we = false → perform (.lateAnswer true) s = .next { s with lateReqs := l }) ∧
    (r.we = true → admits s.platform r.addr = true → perform (.lateAnswer true) s = .next { s with
      lateReqs := l, mem := memSetWord s.mem r.addr.toNat r.wdata, readSeen := (noteRead s).readSeen })) ∧
  (∀ (p : Pins) (s : State) (r : MemReq), r ∈ s.lateReqs → admits s.platform r.addr = true → p.memRspValid = true →
    clockEdge p s = .fault .protocol)

/-! ### Whole-machine rules -/

/-- The invariant holds right after reset. What it says of memory and of the registers there rests on the model's choices
for the values the spec does not give (log entries 3 and 4). -/
def Obligations.InvariantHoldsAtReset : Prop := Invariant State.reset

/-- Every step keeps the invariant: memory in its one form (log entry 3), the FSM's registers as R140 to R150, R154 leave
them in each state, responses as 30_encoding.md R88, R89 pair them, `RSVD` 0 in encoded entries (R82). -/
def Obligations.StepKeepsTheInvariant : Prop :=
  ∀ s t : State, Invariant s → step s = .next t → Invariant t

/-- 10_state.md R30: "no configuration written at run time": no step changes the build and platform parameters. -/
def Obligations.NoStepChangesTheParameters : Prop :=
  ∀ s t : State, step s = .next t → t.platform = s.platform

/-- 41_walker.md R152, R153: a walk in progress that meets the invariant, on admitted memory and with a free allocator,
ends by its response alone, the response to the request it had latched, and the request that waited is then served as if
made from the idle walker. The waiting operation and the environment that stalls nothing are the model's choice (log
entry 11). -/
def Obligations.WaitingRequestIsServedAfterTheWalk : Prop :=
  ∀ (s : State) (va : Word) (root : Ppn), Invariant s → allAdmitted s → s.allocScript = none → s.walker.st ≠ .idle →
    ∃ t, awaitIdle s = .next t ∧ t.walker.st = .idle ∧ Invariant t ∧
      t.result = .walk (responseOf t.walker) ∧ responseFits t.walker = true ∧
      t.walker.vaQ = s.walker.vaQ ∧ t.walker.createQ = s.walker.createQ ∧
      (s.walker.st = .rsp → t.result = .walk (responseOf s.walker)) ∧
      exec (.walkNc va root) s = exec (.walkNc va root) t ∧ exec (.walkC va root) s = exec (.walkC va root) t

/-- 30_encoding.md R96, 20_memory.md R66: the script gives its answers in order, and an allocator without one gives any
answer (log entries 6 and 18). -/
def Obligations.AllocatorAnswersInOrder : Prop :=
  (∀ (l : List AllocAnswer) (s : State), perform (.allocScript l) s = .next { s with allocScript := some l }) ∧
  (∀ (s : State) (a : AllocAnswer) (l : List AllocAnswer), s.allocScript = some (a :: l) →
    nextAnswer s = some (a, { s with allocScript := some l })) ∧
  (∀ s : State, s.allocScript = none → ∃ a, nextAnswer s = some (a, { s with allocDraws := s.allocDraws + 1 }))

/-- 30_encoding.md R96: `LEAF.SET` whose walk does not report `OK` is that walk and nothing more, and it stops where its walk
or its `PA_TO_PPN` stops (one action made of its parts: log entry 18). -/
def Obligations.LeafSetEndsWhereAPartDoes : Prop :=
  ∀ (s : State) (va : Word) (root : Ppn) (pa : Word) (flags : Flags),
    (∀ (t : State) (r : Response), exec (.walkC va root) s = .next t → t.result = .walk r → r.status ≠ 0 →
      perform (.leafSet va root pa flags) s = .next t) ∧
    (∀ (t : State) (r : Response), exec (.walkC va root) s = .next t → t.result = .walk r → r.status = 0 →
      2 ^ 56 ≤ pa.toNat → perform (.leafSet va root pa flags) s = .fault .paRange) ∧
    (∀ f : Fault, exec (.walkC va root) s = .fault f → perform (.leafSet va root pa flags) s = .fault f)

/-- 20_memory.md R55, R57, R62, 70_reset_and_hazards.md R205: a clocked read that nothing races returns what memory holds; one
that a host write races returns the word before the write or after it; no other answer exists. (How the model notes the
values: log entry 14.) -/
def Obligations.ClockedReadsReturnAValueTheWordHeld : Prop :=
  (∀ (p q : Pins) (s t u : State), s.walker.st = .rdReq → p.rst = false → p.memReqReady = true →
    clockEdge p s = .next t → q.rst = false → q.memRspValid = true → clockEdge q t = .next u →
    q.memRspRdata = memWord s.mem (entryPa s.walker.nodeQ (vpn s.walker.vaQ s.walker.lvlQ)).toNat) ∧
  (∀ (q : Pins) (s : State) (pa : Pa) (v : Word), s.walker.st = .rdWait → s.readSeen = [] → pa.toNat + 8 ≤ 2 ^ 56 →
    s.walker.lvlQ = 2 ∨ s.walker.lvlQ = 1 →
    admits s.platform (entryPa s.walker.nodeQ (vpn s.walker.vaQ s.walker.lvlQ)) = true →
    let slot := (entryPa s.walker.nodeQ (vpn s.walker.vaQ s.walker.lvlQ)).toNat
    ∃ t, perform (.hostWrite pa v) s = .next t ∧ (q.rst = false → q.memRspValid = true → protocolBroken q t = false →
      (q.memRspRdata = memWord s.mem slot ∨ q.memRspRdata = memWord (memSetWord s.mem pa.toNat v) slot →
        ∃ u, clockEdge q t = .next u) ∧
      (q.memRspRdata ≠ memWord s.mem slot → q.memRspRdata ≠ memWord (memSetWord s.mem pa.toNat v) slot →
        clockEdge q t = .fault .readNotHeld)))
end

