-- ==== Sys2Proof/Laws/State.lean ====
section
/-! SUPPORT. One lemma per field per named update of the state and of the walker's registers, each true by rfl, so that
no later proof unfolds a record update. -/

namespace Sys2Proof.Machine

/-! ### The state -/

section
variable (s : State)

@[simp] theorem setWalker_walker (w : Walker) : (setWalker w s).walker = w := rfl
@[simp] theorem setWalker_pins (w : Walker) : (setWalker w s).pins = s.pins := rfl
@[simp] theorem setWalker_reqWaiting (w : Walker) : (setWalker w s).reqWaiting = s.reqWaiting := rfl
@[simp] theorem setWalker_codec (w : Walker) : (setWalker w s).codec = s.codec := rfl
@[simp] theorem setWalker_mem (w : Walker) : (setWalker w s).mem = s.mem := rfl
@[simp] theorem setWalker_readSeen (w : Walker) : (setWalker w s).readSeen = s.readSeen := rfl
@[simp] theorem setWalker_lateReqs (w : Walker) : (setWalker w s).lateReqs = s.lateReqs := rfl
@[simp] theorem setWalker_allocScript (w : Walker) : (setWalker w s).allocScript = s.allocScript := rfl
@[simp] theorem setWalker_allocDraws (w : Walker) : (setWalker w s).allocDraws = s.allocDraws := rfl
@[simp] theorem setWalker_resetDraws (w : Walker) : (setWalker w s).resetDraws = s.resetDraws := rfl
@[simp] theorem setWalker_platform (w : Walker) : (setWalker w s).platform = s.platform := rfl
@[simp] theorem setWalker_host (w : Walker) : (setWalker w s).host = s.host := rfl
@[simp] theorem setWalker_result (w : Walker) : (setWalker w s).result = s.result := rfl
@[simp] theorem setWalker_txns (w : Walker) : (setWalker w s).txns = s.txns := rfl

@[simp] theorem record_walker (x : Txn) : (record x s).walker = s.walker := rfl
@[simp] theorem record_pins (x : Txn) : (record x s).pins = s.pins := rfl
@[simp] theorem record_reqWaiting (x : Txn) : (record x s).reqWaiting = s.reqWaiting := rfl
@[simp] theorem record_codec (x : Txn) : (record x s).codec = s.codec := rfl
@[simp] theorem record_mem (x : Txn) : (record x s).mem = s.mem := rfl
@[simp] theorem record_readSeen (x : Txn) : (record x s).readSeen = s.readSeen := rfl
@[simp] theorem record_lateReqs (x : Txn) : (record x s).lateReqs = s.lateReqs := rfl
@[simp] theorem record_allocScript (x : Txn) : (record x s).allocScript = s.allocScript := rfl
@[simp] theorem record_allocDraws (x : Txn) : (record x s).allocDraws = s.allocDraws := rfl
@[simp] theorem record_resetDraws (x : Txn) : (record x s).resetDraws = s.resetDraws := rfl
@[simp] theorem record_platform (x : Txn) : (record x s).platform = s.platform := rfl
@[simp] theorem record_host (x : Txn) : (record x s).host = s.host := rfl
@[simp] theorem record_result (x : Txn) : (record x s).result = s.result := rfl
@[simp] theorem record_txns (x : Txn) : (record x s).txns = x :: s.txns := rfl

@[simp] theorem setMem_walker (m : Mem) : (setMem m s).walker = s.walker := rfl
@[simp] theorem setMem_pins (m : Mem) : (setMem m s).pins = s.pins := rfl
@[simp] theorem setMem_reqWaiting (m : Mem) : (setMem m s).reqWaiting = s.reqWaiting := rfl
@[simp] theorem setMem_codec (m : Mem) : (setMem m s).codec = s.codec := rfl
@[simp] theorem setMem_mem (m : Mem) : (setMem m s).mem = m := rfl
@[simp] theorem setMem_readSeen (m : Mem) : (setMem m s).readSeen = s.readSeen := rfl
@[simp] theorem setMem_lateReqs (m : Mem) : (setMem m s).lateReqs = s.lateReqs := rfl
@[simp] theorem setMem_allocScript (m : Mem) : (setMem m s).allocScript = s.allocScript := rfl
@[simp] theorem setMem_allocDraws (m : Mem) : (setMem m s).allocDraws = s.allocDraws := rfl
@[simp] theorem setMem_resetDraws (m : Mem) : (setMem m s).resetDraws = s.resetDraws := rfl
@[simp] theorem setMem_platform (m : Mem) : (setMem m s).platform = s.platform := rfl
@[simp] theorem setMem_host (m : Mem) : (setMem m s).host = s.host := rfl
@[simp] theorem setMem_result (m : Mem) : (setMem m s).result = s.result := rfl
@[simp] theorem setMem_txns (m : Mem) : (setMem m s).txns = s.txns := rfl

@[simp] theorem setResult_walker (r : OpResult) : (setResult r s).walker = s.walker := rfl
@[simp] theorem setResult_pins (r : OpResult) : (setResult r s).pins = s.pins := rfl
@[simp] theorem setResult_reqWaiting (r : OpResult) : (setResult r s).reqWaiting = s.reqWaiting := rfl
@[simp] theorem setResult_codec (r : OpResult) : (setResult r s).codec = s.codec := rfl
@[simp] theorem setResult_mem (r : OpResult) : (setResult r s).mem = s.mem := rfl
@[simp] theorem setResult_readSeen (r : OpResult) : (setResult r s).readSeen = s.readSeen := rfl
@[simp] theorem setResult_lateReqs (r : OpResult) : (setResult r s).lateReqs = s.lateReqs := rfl
@[simp] theorem setResult_allocScript (r : OpResult) : (setResult r s).allocScript = s.allocScript := rfl
@[simp] theorem setResult_allocDraws (r : OpResult) : (setResult r s).allocDraws = s.allocDraws := rfl
@[simp] theorem setResult_resetDraws (r : OpResult) : (setResult r s).resetDraws = s.resetDraws := rfl
@[simp] theorem setResult_platform (r : OpResult) : (setResult r s).platform = s.platform := rfl
@[simp] theorem setResult_host (r : OpResult) : (setResult r s).host = s.host := rfl
@[simp] theorem setResult_result (r : OpResult) : (setResult r s).result = r := rfl
@[simp] theorem setResult_txns (r : OpResult) : (setResult r s).txns = s.txns := rfl

@[simp] theorem setCodec_walker (c : CodecIn) : (setCodec c s).walker = s.walker := rfl
@[simp] theorem setCodec_pins (c : CodecIn) : (setCodec c s).pins = s.pins := rfl
@[simp] theorem setCodec_reqWaiting (c : CodecIn) : (setCodec c s).reqWaiting = s.reqWaiting := rfl
@[simp] theorem setCodec_codec (c : CodecIn) : (setCodec c s).codec = c := rfl
@[simp] theorem setCodec_mem (c : CodecIn) : (setCodec c s).mem = s.mem := rfl
@[simp] theorem setCodec_readSeen (c : CodecIn) : (setCodec c s).readSeen = s.readSeen := rfl
@[simp] theorem setCodec_lateReqs (c : CodecIn) : (setCodec c s).lateReqs = s.lateReqs := rfl
@[simp] theorem setCodec_allocScript (c : CodecIn) : (setCodec c s).allocScript = s.allocScript := rfl
@[simp] theorem setCodec_allocDraws (c : CodecIn) : (setCodec c s).allocDraws = s.allocDraws := rfl
@[simp] theorem setCodec_resetDraws (c : CodecIn) : (setCodec c s).resetDraws = s.resetDraws := rfl
@[simp] theorem setCodec_platform (c : CodecIn) : (setCodec c s).platform = s.platform := rfl
@[simp] theorem setCodec_host (c : CodecIn) : (setCodec c s).host = s.host := rfl
@[simp] theorem setCodec_result (c : CodecIn) : (setCodec c s).result = s.result := rfl
@[simp] theorem setCodec_txns (c : CodecIn) : (setCodec c s).txns = s.txns := rfl

@[simp] theorem setPins_walker (p : Pins) (b : Bool) : (setPins p b s).walker = s.walker := rfl
@[simp] theorem setPins_pins (p : Pins) (b : Bool) : (setPins p b s).pins = p := rfl
@[simp] theorem setPins_reqWaiting (p : Pins) (b : Bool) : (setPins p b s).reqWaiting = b := rfl
@[simp] theorem setPins_codec (p : Pins) (b : Bool) : (setPins p b s).codec = s.codec := rfl
@[simp] theorem setPins_mem (p : Pins) (b : Bool) : (setPins p b s).mem = s.mem := rfl
@[simp] theorem setPins_readSeen (p : Pins) (b : Bool) : (setPins p b s).readSeen = s.readSeen := rfl
@[simp] theorem setPins_lateReqs (p : Pins) (b : Bool) : (setPins p b s).lateReqs = s.lateReqs := rfl
@[simp] theorem setPins_allocScript (p : Pins) (b : Bool) : (setPins p b s).allocScript = s.allocScript := rfl
@[simp] theorem setPins_allocDraws (p : Pins) (b : Bool) : (setPins p b s).allocDraws = s.allocDraws := rfl
@[simp] theorem setPins_resetDraws (p : Pins) (b : Bool) : (setPins p b s).resetDraws = s.resetDraws := rfl
@[simp] theorem setPins_platform (p : Pins) (b : Bool) : (setPins p b s).platform = s.platform := rfl
@[simp] theorem setPins_host (p : Pins) (b : Bool) : (setPins p b s).host = s.host := rfl
@[simp] theorem setPins_result (p : Pins) (b : Bool) : (setPins p b s).result = s.result := rfl
@[simp] theorem setPins_txns (p : Pins) (b : Bool) : (setPins p b s).txns = s.txns := rfl

@[simp] theorem clearTxns_walker : (clearTxns s).walker = s.walker := rfl
@[simp] theorem clearTxns_pins : (clearTxns s).pins = s.pins := rfl
@[simp] theorem clearTxns_reqWaiting : (clearTxns s).reqWaiting = s.reqWaiting := rfl
@[simp] theorem clearTxns_codec : (clearTxns s).codec = s.codec := rfl
@[simp] theorem clearTxns_mem : (clearTxns s).mem = s.mem := rfl
@[simp] theorem clearTxns_readSeen : (clearTxns s).readSeen = s.readSeen := rfl
@[simp] theorem clearTxns_lateReqs : (clearTxns s).lateReqs = s.lateReqs := rfl
@[simp] theorem clearTxns_allocScript : (clearTxns s).allocScript = s.allocScript := rfl
@[simp] theorem clearTxns_allocDraws : (clearTxns s).allocDraws = s.allocDraws := rfl
@[simp] theorem clearTxns_resetDraws : (clearTxns s).resetDraws = s.resetDraws := rfl
@[simp] theorem clearTxns_platform : (clearTxns s).platform = s.platform := rfl
@[simp] theorem clearTxns_host : (clearTxns s).host = s.host := rfl
@[simp] theorem clearTxns_result : (clearTxns s).result = s.result := rfl
@[simp] theorem clearTxns_txns : (clearTxns s).txns = [] := rfl

@[simp] theorem openRead_walker : (openRead s).walker = s.walker := rfl
@[simp] theorem openRead_pins : (openRead s).pins = s.pins := rfl
@[simp] theorem openRead_reqWaiting : (openRead s).reqWaiting = s.reqWaiting := rfl
@[simp] theorem openRead_codec : (openRead s).codec = s.codec := rfl
@[simp] theorem openRead_mem : (openRead s).mem = s.mem := rfl
@[simp] theorem openRead_readSeen : (openRead s).readSeen = [] := rfl
@[simp] theorem openRead_lateReqs : (openRead s).lateReqs = s.lateReqs := rfl
@[simp] theorem openRead_allocScript : (openRead s).allocScript = s.allocScript := rfl
@[simp] theorem openRead_allocDraws : (openRead s).allocDraws = s.allocDraws := rfl
@[simp] theorem openRead_resetDraws : (openRead s).resetDraws = s.resetDraws := rfl
@[simp] theorem openRead_platform : (openRead s).platform = s.platform := rfl
@[simp] theorem openRead_host : (openRead s).host = s.host := rfl
@[simp] theorem openRead_result : (openRead s).result = s.result := rfl
@[simp] theorem openRead_txns : (openRead s).txns = s.txns := rfl

@[simp] theorem noteRead_walker : (noteRead s).walker = s.walker := by unfold noteRead; split <;> rfl
@[simp] theorem noteRead_pins : (noteRead s).pins = s.pins := by unfold noteRead; split <;> rfl
@[simp] theorem noteRead_reqWaiting : (noteRead s).reqWaiting = s.reqWaiting := by unfold noteRead; split <;> rfl
@[simp] theorem noteRead_codec : (noteRead s).codec = s.codec := by unfold noteRead; split <;> rfl
@[simp] theorem noteRead_mem : (noteRead s).mem = s.mem := by unfold noteRead; split <;> rfl
@[simp] theorem noteRead_lateReqs : (noteRead s).lateReqs = s.lateReqs := by unfold noteRead; split <;> rfl
@[simp] theorem noteRead_allocScript : (noteRead s).allocScript = s.allocScript := by unfold noteRead; split <;> rfl
@[simp] theorem noteRead_allocDraws : (noteRead s).allocDraws = s.allocDraws := by unfold noteRead; split <;> rfl
@[simp] theorem noteRead_resetDraws : (noteRead s).resetDraws = s.resetDraws := by unfold noteRead; split <;> rfl
@[simp] theorem noteRead_platform : (noteRead s).platform = s.platform := by unfold noteRead; split <;> rfl
@[simp] theorem noteRead_host : (noteRead s).host = s.host := by unfold noteRead; split <;> rfl
@[simp] theorem noteRead_result : (noteRead s).result = s.result := by unfold noteRead; split <;> rfl
@[simp] theorem noteRead_txns : (noteRead s).txns = s.txns := by unfold noteRead; split <;> rfl

@[simp] theorem foreignWrite_walker (m : Mem) : (foreignWrite m s).walker = s.walker := noteRead_walker s
@[simp] theorem foreignWrite_pins (m : Mem) : (foreignWrite m s).pins = s.pins := noteRead_pins s
@[simp] theorem foreignWrite_reqWaiting (m : Mem) : (foreignWrite m s).reqWaiting = s.reqWaiting := noteRead_reqWaiting s
@[simp] theorem foreignWrite_codec (m : Mem) : (foreignWrite m s).codec = s.codec := noteRead_codec s
@[simp] theorem foreignWrite_mem (m : Mem) : (foreignWrite m s).mem = m := rfl
@[simp] theorem foreignWrite_readSeen (m : Mem) : (foreignWrite m s).readSeen = (noteRead s).readSeen := rfl
@[simp] theorem foreignWrite_lateReqs (m : Mem) : (foreignWrite m s).lateReqs = s.lateReqs := noteRead_lateReqs s
@[simp] theorem foreignWrite_allocScript (m : Mem) : (foreignWrite m s).allocScript = s.allocScript := noteRead_allocScript s
@[simp] theorem foreignWrite_allocDraws (m : Mem) : (foreignWrite m s).allocDraws = s.allocDraws := noteRead_allocDraws s
@[simp] theorem foreignWrite_resetDraws (m : Mem) : (foreignWrite m s).resetDraws = s.resetDraws := noteRead_resetDraws s
@[simp] theorem foreignWrite_platform (m : Mem) : (foreignWrite m s).platform = s.platform := noteRead_platform s
@[simp] theorem foreignWrite_host (m : Mem) : (foreignWrite m s).host = s.host := noteRead_host s
@[simp] theorem foreignWrite_result (m : Mem) : (foreignWrite m s).result = s.result := noteRead_result s
@[simp] theorem foreignWrite_txns (m : Mem) : (foreignWrite m s).txns = s.txns := noteRead_txns s

/-- With no read outstanding there is nothing to note. -/
theorem noteRead_of_ne (h : s.walker.st ≠ .rdWait) : noteRead s = s := if_neg h

/-- With a read outstanding the word's value is noted. -/
theorem noteRead_of_rdWait (h : s.walker.st = .rdWait) :
    noteRead s = { s with readSeen := memWord s.mem (slotAddr s.walker).toNat :: s.readSeen } := if_pos h

@[simp] theorem zeroed_walker (p : Ppn) : (zeroed p s).walker = s.walker := rfl
@[simp] theorem zeroed_pins (p : Ppn) : (zeroed p s).pins = s.pins := rfl
@[simp] theorem zeroed_reqWaiting (p : Ppn) : (zeroed p s).reqWaiting = s.reqWaiting := rfl
@[simp] theorem zeroed_codec (p : Ppn) : (zeroed p s).codec = s.codec := rfl
@[simp] theorem zeroed_mem (p : Ppn) : (zeroed p s).mem = memZeroFrame s.mem p := rfl
@[simp] theorem zeroed_readSeen (p : Ppn) : (zeroed p s).readSeen = s.readSeen := rfl
@[simp] theorem zeroed_lateReqs (p : Ppn) : (zeroed p s).lateReqs = s.lateReqs := rfl
@[simp] theorem zeroed_allocScript (p : Ppn) : (zeroed p s).allocScript = s.allocScript := rfl
@[simp] theorem zeroed_allocDraws (p : Ppn) : (zeroed p s).allocDraws = s.allocDraws := rfl
@[simp] theorem zeroed_resetDraws (p : Ppn) : (zeroed p s).resetDraws = s.resetDraws := rfl
@[simp] theorem zeroed_platform (p : Ppn) : (zeroed p s).platform = s.platform := rfl
@[simp] theorem zeroed_host (p : Ppn) : (zeroed p s).host = s.host := rfl
@[simp] theorem zeroed_result (p : Ppn) : (zeroed p s).result = s.result := rfl
@[simp] theorem zeroed_txns (p : Ppn) : (zeroed p s).txns = zeroTxns p ++ s.txns := rfl

@[simp] theorem performWrite_walker (a : Pa) (v : Word) : (performWrite a v s).walker = s.walker := rfl
@[simp] theorem performWrite_pins (a : Pa) (v : Word) : (performWrite a v s).pins = s.pins := rfl
@[simp] theorem performWrite_reqWaiting (a : Pa) (v : Word) : (performWrite a v s).reqWaiting = s.reqWaiting := rfl
@[simp] theorem performWrite_codec (a : Pa) (v : Word) : (performWrite a v s).codec = s.codec := rfl
@[simp] theorem performWrite_mem (a : Pa) (v : Word) : (performWrite a v s).mem = memSetWord s.mem a.toNat v := rfl
@[simp] theorem performWrite_readSeen (a : Pa) (v : Word) : (performWrite a v s).readSeen = s.readSeen := rfl
@[simp] theorem performWrite_lateReqs (a : Pa) (v : Word) : (performWrite a v s).lateReqs = s.lateReqs := rfl
@[simp] theorem performWrite_allocScript (a : Pa) (v : Word) : (performWrite a v s).allocScript = s.allocScript := rfl
@[simp] theorem performWrite_allocDraws (a : Pa) (v : Word) : (performWrite a v s).allocDraws = s.allocDraws := rfl
@[simp] theorem performWrite_resetDraws (a : Pa) (v : Word) : (performWrite a v s).resetDraws = s.resetDraws := rfl
@[simp] theorem performWrite_platform (a : Pa) (v : Word) : (performWrite a v s).platform = s.platform := rfl
@[simp] theorem performWrite_host (a : Pa) (v : Word) : (performWrite a v s).host = s.host := rfl
@[simp] theorem performWrite_result (a : Pa) (v : Word) : (performWrite a v s).result = s.result := rfl
@[simp] theorem performWrite_txns (a : Pa) (v : Word) : (performWrite a v s).txns = .write a v :: s.txns := rfl

@[simp] theorem descendInto_walker (p : Ppn) (l : Lvl) : (descendInto p l s).walker = enterNode p l s.walker := rfl
@[simp] theorem descendInto_pins (p : Ppn) (l : Lvl) : (descendInto p l s).pins = s.pins := rfl
@[simp] theorem descendInto_reqWaiting (p : Ppn) (l : Lvl) : (descendInto p l s).reqWaiting = s.reqWaiting := rfl
@[simp] theorem descendInto_codec (p : Ppn) (l : Lvl) : (descendInto p l s).codec = s.codec := rfl
@[simp] theorem descendInto_mem (p : Ppn) (l : Lvl) : (descendInto p l s).mem = s.mem := rfl
@[simp] theorem descendInto_readSeen (p : Ppn) (l : Lvl) : (descendInto p l s).readSeen = s.readSeen := rfl
@[simp] theorem descendInto_lateReqs (p : Ppn) (l : Lvl) : (descendInto p l s).lateReqs = s.lateReqs := rfl
@[simp] theorem descendInto_allocScript (p : Ppn) (l : Lvl) : (descendInto p l s).allocScript = s.allocScript := rfl
@[simp] theorem descendInto_allocDraws (p : Ppn) (l : Lvl) : (descendInto p l s).allocDraws = s.allocDraws := rfl
@[simp] theorem descendInto_resetDraws (p : Ppn) (l : Lvl) : (descendInto p l s).resetDraws = s.resetDraws := rfl
@[simp] theorem descendInto_platform (p : Ppn) (l : Lvl) : (descendInto p l s).platform = s.platform := rfl
@[simp] theorem descendInto_host (p : Ppn) (l : Lvl) : (descendInto p l s).host = s.host := rfl
@[simp] theorem descendInto_result (p : Ppn) (l : Lvl) : (descendInto p l s).result = s.result := rfl
@[simp] theorem descendInto_txns (p : Ppn) (l : Lvl) : (descendInto p l s).txns = s.txns := rfl

@[simp] theorem takeResponse_walker : (takeResponse s).walker = goto .idle s.walker := rfl
@[simp] theorem takeResponse_pins : (takeResponse s).pins = s.pins := rfl
@[simp] theorem takeResponse_reqWaiting : (takeResponse s).reqWaiting = s.reqWaiting := rfl
@[simp] theorem takeResponse_codec : (takeResponse s).codec = s.codec := rfl
@[simp] theorem takeResponse_mem : (takeResponse s).mem = s.mem := rfl
@[simp] theorem takeResponse_readSeen : (takeResponse s).readSeen = s.readSeen := rfl
@[simp] theorem takeResponse_lateReqs : (takeResponse s).lateReqs = s.lateReqs := rfl
@[simp] theorem takeResponse_allocScript : (takeResponse s).allocScript = s.allocScript := rfl
@[simp] theorem takeResponse_allocDraws : (takeResponse s).allocDraws = s.allocDraws := rfl
@[simp] theorem takeResponse_resetDraws : (takeResponse s).resetDraws = s.resetDraws := rfl
@[simp] theorem takeResponse_platform : (takeResponse s).platform = s.platform := rfl
@[simp] theorem takeResponse_host : (takeResponse s).host = s.host := rfl
@[simp] theorem takeResponse_result : (takeResponse s).result = .walk (responseOf s.walker) := rfl
@[simp] theorem takeResponse_txns : (takeResponse s).txns = s.txns := rfl

@[simp] theorem beginWalk_walker (va : Word) (root : Ppn) (c : Bool) : (beginWalk va root c s).walker = acceptRequest va root c s.walker := rfl
@[simp] theorem beginWalk_pins (va : Word) (root : Ppn) (c : Bool) : (beginWalk va root c s).pins = .quiet := rfl
@[simp] theorem beginWalk_reqWaiting (va : Word) (root : Ppn) (c : Bool) : (beginWalk va root c s).reqWaiting = false := rfl
@[simp] theorem beginWalk_codec (va : Word) (root : Ppn) (c : Bool) : (beginWalk va root c s).codec = s.codec := rfl
@[simp] theorem beginWalk_mem (va : Word) (root : Ppn) (c : Bool) : (beginWalk va root c s).mem = s.mem := rfl
@[simp] theorem beginWalk_readSeen (va : Word) (root : Ppn) (c : Bool) : (beginWalk va root c s).readSeen = s.readSeen := rfl
@[simp] theorem beginWalk_lateReqs (va : Word) (root : Ppn) (c : Bool) : (beginWalk va root c s).lateReqs = s.lateReqs := rfl
@[simp] theorem beginWalk_allocScript (va : Word) (root : Ppn) (c : Bool) : (beginWalk va root c s).allocScript = s.allocScript := rfl
@[simp] theorem beginWalk_allocDraws (va : Word) (root : Ppn) (c : Bool) : (beginWalk va root c s).allocDraws = s.allocDraws := rfl
@[simp] theorem beginWalk_resetDraws (va : Word) (root : Ppn) (c : Bool) : (beginWalk va root c s).resetDraws = s.resetDraws := rfl
@[simp] theorem beginWalk_platform (va : Word) (root : Ppn) (c : Bool) : (beginWalk va root c s).platform = s.platform := rfl
@[simp] theorem beginWalk_host (va : Word) (root : Ppn) (c : Bool) : (beginWalk va root c s).host = s.host := rfl
@[simp] theorem beginWalk_result (va : Word) (root : Ppn) (c : Bool) : (beginWalk va root c s).result = s.result := rfl
@[simp] theorem beginWalk_txns (va : Word) (root : Ppn) (c : Bool) : (beginWalk va root c s).txns = [] := rfl

@[simp] theorem takeAction_walker (l : List HostAction) : (takeAction l s).walker = s.walker := rfl
@[simp] theorem takeAction_pins (l : List HostAction) : (takeAction l s).pins = s.pins := rfl
@[simp] theorem takeAction_reqWaiting (l : List HostAction) : (takeAction l s).reqWaiting = s.reqWaiting := rfl
@[simp] theorem takeAction_codec (l : List HostAction) : (takeAction l s).codec = s.codec := rfl
@[simp] theorem takeAction_mem (l : List HostAction) : (takeAction l s).mem = s.mem := rfl
@[simp] theorem takeAction_readSeen (l : List HostAction) : (takeAction l s).readSeen = s.readSeen := rfl
@[simp] theorem takeAction_lateReqs (l : List HostAction) : (takeAction l s).lateReqs = s.lateReqs := rfl
@[simp] theorem takeAction_allocScript (l : List HostAction) : (takeAction l s).allocScript = s.allocScript := rfl
@[simp] theorem takeAction_allocDraws (l : List HostAction) : (takeAction l s).allocDraws = s.allocDraws := rfl
@[simp] theorem takeAction_resetDraws (l : List HostAction) : (takeAction l s).resetDraws = s.resetDraws := rfl
@[simp] theorem takeAction_platform (l : List HostAction) : (takeAction l s).platform = s.platform := rfl
@[simp] theorem takeAction_host (l : List HostAction) : (takeAction l s).host = l := rfl
@[simp] theorem takeAction_result (l : List HostAction) : (takeAction l s).result = s.result := rfl
@[simp] theorem takeAction_txns (l : List HostAction) : (takeAction l s).txns = s.txns := rfl

@[simp] theorem setAllocScript_walker (l : List AllocAnswer) : (setAllocScript l s).walker = s.walker := rfl
@[simp] theorem setAllocScript_pins (l : List AllocAnswer) : (setAllocScript l s).pins = s.pins := rfl
@[simp] theorem setAllocScript_reqWaiting (l : List AllocAnswer) : (setAllocScript l s).reqWaiting = s.reqWaiting := rfl
@[simp] theorem setAllocScript_codec (l : List AllocAnswer) : (setAllocScript l s).codec = s.codec := rfl
@[simp] theorem setAllocScript_mem (l : List AllocAnswer) : (setAllocScript l s).mem = s.mem := rfl
@[simp] theorem setAllocScript_readSeen (l : List AllocAnswer) : (setAllocScript l s).readSeen = s.readSeen := rfl
@[simp] theorem setAllocScript_lateReqs (l : List AllocAnswer) : (setAllocScript l s).lateReqs = s.lateReqs := rfl
@[simp] theorem setAllocScript_allocScript (l : List AllocAnswer) : (setAllocScript l s).allocScript = some l := rfl
@[simp] theorem setAllocScript_allocDraws (l : List AllocAnswer) : (setAllocScript l s).allocDraws = s.allocDraws := rfl
@[simp] theorem setAllocScript_resetDraws (l : List AllocAnswer) : (setAllocScript l s).resetDraws = s.resetDraws := rfl
@[simp] theorem setAllocScript_platform (l : List AllocAnswer) : (setAllocScript l s).platform = s.platform := rfl
@[simp] theorem setAllocScript_host (l : List AllocAnswer) : (setAllocScript l s).host = s.host := rfl
@[simp] theorem setAllocScript_result (l : List AllocAnswer) : (setAllocScript l s).result = s.result := rfl
@[simp] theorem setAllocScript_txns (l : List AllocAnswer) : (setAllocScript l s).txns = s.txns := rfl

@[simp] theorem pushWord_walker (w : OpWord) : (pushWord w s).walker = s.walker := rfl
@[simp] theorem pushWord_pins (w : OpWord) : (pushWord w s).pins = s.pins := rfl
@[simp] theorem pushWord_reqWaiting (w : OpWord) : (pushWord w s).reqWaiting = s.reqWaiting := rfl
@[simp] theorem pushWord_codec (w : OpWord) : (pushWord w s).codec = s.codec := rfl
@[simp] theorem pushWord_mem (w : OpWord) : (pushWord w s).mem = s.mem := rfl
@[simp] theorem pushWord_readSeen (w : OpWord) : (pushWord w s).readSeen = s.readSeen := rfl
@[simp] theorem pushWord_lateReqs (w : OpWord) : (pushWord w s).lateReqs = s.lateReqs := rfl
@[simp] theorem pushWord_allocScript (w : OpWord) : (pushWord w s).allocScript = s.allocScript := rfl
@[simp] theorem pushWord_allocDraws (w : OpWord) : (pushWord w s).allocDraws = s.allocDraws := rfl
@[simp] theorem pushWord_resetDraws (w : OpWord) : (pushWord w s).resetDraws = s.resetDraws := rfl
@[simp] theorem pushWord_platform (w : OpWord) : (pushWord w s).platform = s.platform := rfl
@[simp] theorem pushWord_host (w : OpWord) : (pushWord w s).host = .op w :: s.host := rfl
@[simp] theorem pushWord_result (w : OpWord) : (pushWord w s).result = s.result := rfl
@[simp] theorem pushWord_txns (w : OpWord) : (pushWord w s).txns = s.txns := rfl

end

/-! ### The walker's registers -/

section
variable (w : Walker)

@[simp] theorem acceptRequest_st (va : Word) (root : Ppn) (c : Bool) : (acceptRequest va root c w).st = .check := rfl
@[simp] theorem acceptRequest_vaQ (va : Word) (root : Ppn) (c : Bool) : (acceptRequest va root c w).vaQ = va := rfl
@[simp] theorem acceptRequest_createQ (va : Word) (root : Ppn) (c : Bool) : (acceptRequest va root c w).createQ = c := rfl
@[simp] theorem acceptRequest_nodeQ (va : Word) (root : Ppn) (c : Bool) : (acceptRequest va root c w).nodeQ = root := rfl
@[simp] theorem acceptRequest_lvlQ (va : Word) (root : Ppn) (c : Bool) : (acceptRequest va root c w).lvlQ = 2 := rfl
@[simp] theorem acceptRequest_entQ (va : Word) (root : Ppn) (c : Bool) : (acceptRequest va root c w).entQ = w.entQ := rfl
@[simp] theorem acceptRequest_newQ (va : Word) (root : Ppn) (c : Bool) : (acceptRequest va root c w).newQ = w.newQ := rfl
@[simp] theorem acceptRequest_ziQ (va : Word) (root : Ppn) (c : Bool) : (acceptRequest va root c w).ziQ = w.ziQ := rfl
@[simp] theorem acceptRequest_statusQ (va : Word) (root : Ppn) (c : Bool) : (acceptRequest va root c w).statusQ = w.statusQ := rfl
@[simp] theorem acceptRequest_rlvlQ (va : Word) (root : Ppn) (c : Bool) : (acceptRequest va root c w).rlvlQ = w.rlvlQ := rfl
@[simp] theorem acceptRequest_rnodeQ (va : Word) (root : Ppn) (c : Bool) : (acceptRequest va root c w).rnodeQ = w.rnodeQ := rfl
@[simp] theorem acceptRequest_ridxQ (va : Word) (root : Ppn) (c : Bool) : (acceptRequest va root c w).ridxQ = w.ridxQ := rfl

@[simp] theorem latchEntry_st (r : Word) : (latchEntry r w).st = w.st := rfl
@[simp] theorem latchEntry_vaQ (r : Word) : (latchEntry r w).vaQ = w.vaQ := rfl
@[simp] theorem latchEntry_createQ (r : Word) : (latchEntry r w).createQ = w.createQ := rfl
@[simp] theorem latchEntry_nodeQ (r : Word) : (latchEntry r w).nodeQ = w.nodeQ := rfl
@[simp] theorem latchEntry_lvlQ (r : Word) : (latchEntry r w).lvlQ = w.lvlQ := rfl
@[simp] theorem latchEntry_entQ (r : Word) : (latchEntry r w).entQ = r := rfl
@[simp] theorem latchEntry_newQ (r : Word) : (latchEntry r w).newQ = w.newQ := rfl
@[simp] theorem latchEntry_ziQ (r : Word) : (latchEntry r w).ziQ = w.ziQ := rfl
@[simp] theorem latchEntry_statusQ (r : Word) : (latchEntry r w).statusQ = w.statusQ := rfl
@[simp] theorem latchEntry_rlvlQ (r : Word) : (latchEntry r w).rlvlQ = w.rlvlQ := rfl
@[simp] theorem latchEntry_rnodeQ (r : Word) : (latchEntry r w).rnodeQ = w.rnodeQ := rfl
@[simp] theorem latchEntry_ridxQ (r : Word) : (latchEntry r w).ridxQ = w.ridxQ := rfl

@[simp] theorem latchFrame_st (p : Ppn) : (latchFrame p w).st = w.st := rfl
@[simp] theorem latchFrame_vaQ (p : Ppn) : (latchFrame p w).vaQ = w.vaQ := rfl
@[simp] theorem latchFrame_createQ (p : Ppn) : (latchFrame p w).createQ = w.createQ := rfl
@[simp] theorem latchFrame_nodeQ (p : Ppn) : (latchFrame p w).nodeQ = w.nodeQ := rfl
@[simp] theorem latchFrame_lvlQ (p : Ppn) : (latchFrame p w).lvlQ = w.lvlQ := rfl
@[simp] theorem latchFrame_entQ (p : Ppn) : (latchFrame p w).entQ = w.entQ := rfl
@[simp] theorem latchFrame_newQ (p : Ppn) : (latchFrame p w).newQ = p := rfl
@[simp] theorem latchFrame_ziQ (p : Ppn) : (latchFrame p w).ziQ = 0 := rfl
@[simp] theorem latchFrame_statusQ (p : Ppn) : (latchFrame p w).statusQ = w.statusQ := rfl
@[simp] theorem latchFrame_rlvlQ (p : Ppn) : (latchFrame p w).rlvlQ = w.rlvlQ := rfl
@[simp] theorem latchFrame_rnodeQ (p : Ppn) : (latchFrame p w).rnodeQ = w.rnodeQ := rfl
@[simp] theorem latchFrame_ridxQ (p : Ppn) : (latchFrame p w).ridxQ = w.ridxQ := rfl

@[simp] theorem latchZeroed_st (p : Ppn) : (latchZeroed p w).st = w.st := rfl
@[simp] theorem latchZeroed_vaQ (p : Ppn) : (latchZeroed p w).vaQ = w.vaQ := rfl
@[simp] theorem latchZeroed_createQ (p : Ppn) : (latchZeroed p w).createQ = w.createQ := rfl
@[simp] theorem latchZeroed_nodeQ (p : Ppn) : (latchZeroed p w).nodeQ = w.nodeQ := rfl
@[simp] theorem latchZeroed_lvlQ (p : Ppn) : (latchZeroed p w).lvlQ = w.lvlQ := rfl
@[simp] theorem latchZeroed_entQ (p : Ppn) : (latchZeroed p w).entQ = w.entQ := rfl
@[simp] theorem latchZeroed_newQ (p : Ppn) : (latchZeroed p w).newQ = p := rfl
@[simp] theorem latchZeroed_ziQ (p : Ppn) : (latchZeroed p w).ziQ = 512 := rfl
@[simp] theorem latchZeroed_statusQ (p : Ppn) : (latchZeroed p w).statusQ = w.statusQ := rfl
@[simp] theorem latchZeroed_rlvlQ (p : Ppn) : (latchZeroed p w).rlvlQ = w.rlvlQ := rfl
@[simp] theorem latchZeroed_rnodeQ (p : Ppn) : (latchZeroed p w).rnodeQ = w.rnodeQ := rfl
@[simp] theorem latchZeroed_ridxQ (p : Ppn) : (latchZeroed p w).ridxQ = w.ridxQ := rfl

@[simp] theorem enterNode_st (p : Ppn) (l : Lvl) : (enterNode p l w).st = w.st := rfl
@[simp] theorem enterNode_vaQ (p : Ppn) (l : Lvl) : (enterNode p l w).vaQ = w.vaQ := rfl
@[simp] theorem enterNode_createQ (p : Ppn) (l : Lvl) : (enterNode p l w).createQ = w.createQ := rfl
@[simp] theorem enterNode_nodeQ (p : Ppn) (l : Lvl) : (enterNode p l w).nodeQ = p := rfl
@[simp] theorem enterNode_lvlQ (p : Ppn) (l : Lvl) : (enterNode p l w).lvlQ = l := rfl
@[simp] theorem enterNode_entQ (p : Ppn) (l : Lvl) : (enterNode p l w).entQ = w.entQ := rfl
@[simp] theorem enterNode_newQ (p : Ppn) (l : Lvl) : (enterNode p l w).newQ = w.newQ := rfl
@[simp] theorem enterNode_ziQ (p : Ppn) (l : Lvl) : (enterNode p l w).ziQ = w.ziQ := rfl
@[simp] theorem enterNode_statusQ (p : Ppn) (l : Lvl) : (enterNode p l w).statusQ = w.statusQ := rfl
@[simp] theorem enterNode_rlvlQ (p : Ppn) (l : Lvl) : (enterNode p l w).rlvlQ = w.rlvlQ := rfl
@[simp] theorem enterNode_rnodeQ (p : Ppn) (l : Lvl) : (enterNode p l w).rnodeQ = w.rnodeQ := rfl
@[simp] theorem enterNode_ridxQ (p : Ppn) (l : Lvl) : (enterNode p l w).ridxQ = w.ridxQ := rfl

@[simp] theorem goto_st (f : Fsm) : (goto f w).st = f := rfl
@[simp] theorem goto_vaQ (f : Fsm) : (goto f w).vaQ = w.vaQ := rfl
@[simp] theorem goto_createQ (f : Fsm) : (goto f w).createQ = w.createQ := rfl
@[simp] theorem goto_nodeQ (f : Fsm) : (goto f w).nodeQ = w.nodeQ := rfl
@[simp] theorem goto_lvlQ (f : Fsm) : (goto f w).lvlQ = w.lvlQ := rfl
@[simp] theorem goto_entQ (f : Fsm) : (goto f w).entQ = w.entQ := rfl
@[simp] theorem goto_newQ (f : Fsm) : (goto f w).newQ = w.newQ := rfl
@[simp] theorem goto_ziQ (f : Fsm) : (goto f w).ziQ = w.ziQ := rfl
@[simp] theorem goto_statusQ (f : Fsm) : (goto f w).statusQ = w.statusQ := rfl
@[simp] theorem goto_rlvlQ (f : Fsm) : (goto f w).rlvlQ = w.rlvlQ := rfl
@[simp] theorem goto_rnodeQ (f : Fsm) : (goto f w).rnodeQ = w.rnodeQ := rfl
@[simp] theorem goto_ridxQ (f : Fsm) : (goto f w).ridxQ = w.ridxQ := rfl

@[simp] theorem finish_st (x : Status) (l : Lvl) (p : Ppn) (i : Idx) : (finish x l p i w).st = .rsp := rfl
@[simp] theorem finish_vaQ (x : Status) (l : Lvl) (p : Ppn) (i : Idx) : (finish x l p i w).vaQ = w.vaQ := rfl
@[simp] theorem finish_createQ (x : Status) (l : Lvl) (p : Ppn) (i : Idx) : (finish x l p i w).createQ = w.createQ := rfl
@[simp] theorem finish_nodeQ (x : Status) (l : Lvl) (p : Ppn) (i : Idx) : (finish x l p i w).nodeQ = w.nodeQ := rfl
@[simp] theorem finish_lvlQ (x : Status) (l : Lvl) (p : Ppn) (i : Idx) : (finish x l p i w).lvlQ = w.lvlQ := rfl
@[simp] theorem finish_entQ (x : Status) (l : Lvl) (p : Ppn) (i : Idx) : (finish x l p i w).entQ = w.entQ := rfl
@[simp] theorem finish_newQ (x : Status) (l : Lvl) (p : Ppn) (i : Idx) : (finish x l p i w).newQ = w.newQ := rfl
@[simp] theorem finish_ziQ (x : Status) (l : Lvl) (p : Ppn) (i : Idx) : (finish x l p i w).ziQ = w.ziQ := rfl
@[simp] theorem finish_statusQ (x : Status) (l : Lvl) (p : Ppn) (i : Idx) : (finish x l p i w).statusQ = statusCode x := rfl
@[simp] theorem finish_rlvlQ (x : Status) (l : Lvl) (p : Ppn) (i : Idx) : (finish x l p i w).rlvlQ = l := rfl
@[simp] theorem finish_rnodeQ (x : Status) (l : Lvl) (p : Ppn) (i : Idx) : (finish x l p i w).rnodeQ = p := rfl
@[simp] theorem finish_ridxQ (x : Status) (l : Lvl) (p : Ppn) (i : Idx) : (finish x l p i w).ridxQ = i := rfl

end

end Sys2Proof.Machine
end

