-- ==== Sys2Proof/Laws/Memory.lean ====
section
/-! SUPPORT. The laws of physical memory: a read after a write, everything else unchanged, and the one form kept. -/

namespace Sys2Proof.Machine

/-! ### Bytes -/

theorem memWfFrom_cons {lo k : Nat} {v : Byte} {m : Mem} :
    memWfFrom lo ((k, v) :: m) = true ↔ lo ≤ k ∧ k < 2 ^ 56 ∧ v ≠ unwrittenByte ∧ memWfFrom (k + 1) m = true := by
  simp [memWfFrom, and_assoc]

theorem memWfFrom_mono {lo lo' : Nat} {m : Mem} (h : memWfFrom lo m = true) (hl : lo' ≤ lo) :
    memWfFrom lo' m = true := by
  cases m with
  | nil => rfl
  | cons c m =>
    obtain ⟨h1, h2, h3, h4⟩ := memWfFrom_cons.1 h
    exact memWfFrom_cons.2 ⟨by omega, h2, h3, h4⟩

/-- Below the first address of a memory every byte is unwritten. -/
theorem memByte_below {lo a : Nat} {m : Mem} (h : memWfFrom lo m = true) (ha : a < lo) :
    memByte m a = unwrittenByte := by
  induction m generalizing lo with
  | nil => rfl
  | cons c m ih =>
    obtain ⟨h1, -, -, h4⟩ := memWfFrom_cons.1 h
    rw [memByte, if_neg (by omega), ih h4 (by omega)]

/-- A read after a byte write: the written byte at its address, the old byte elsewhere. -/
theorem memByte_memSetByte {lo : Nat} {m : Mem} (h : memWfFrom lo m = true) (a : Nat) (b : Byte) (a' : Nat) :
    memByte (memSetByte m a b) a' = if a' = a then b else memByte m a' := by
  induction m generalizing lo with
  | nil =>
    by_cases hb : b = unwrittenByte <;> by_cases ha : a' = a <;> simp [memSetByte, memByte, hb, ha]
    omega
  | cons c m ih =>
    obtain ⟨k, v⟩ := c
    obtain ⟨h1, -, -, h4⟩ := memWfFrom_cons.1 h
    have hlow : a' ≤ k → memByte m a' = unwrittenByte := fun hk => memByte_below h4 (by omega)
    rw [memSetByte]
    by_cases hka : k < a
    · rw [if_pos hka, memByte, memByte, ih h4]
      split <;> split <;> first | rfl | omega
    · rw [if_neg hka]
      by_cases hk : k = a
      · subst hk
        rw [if_pos rfl]
        by_cases hb : b = unwrittenByte
        · rw [if_pos hb, memByte]
          by_cases ha : a' = k
          · rw [if_pos ha, hb, hlow (by omega)]
          · rw [if_neg ha, if_neg (by omega)]
        · rw [if_neg hb, memByte, memByte]
          by_cases ha : a' = k
          · rw [if_pos ha, if_pos ha.symm]
          · rw [if_neg ha, if_neg (by omega), if_neg (by omega)]
      · rw [if_neg hk]
        by_cases hb : b = unwrittenByte
        · rw [if_pos hb, memByte]
          by_cases ha : a' = a
          · rw [if_pos ha, if_neg (by omega), hb, hlow (by omega)]
          · rw [if_neg ha]
        · rw [if_neg hb, memByte]
          by_cases ha : a' = a
          · rw [if_pos ha, if_pos ha.symm]
          · rw [if_neg ha, if_neg (by omega)]

/-- A byte write inside the address space keeps the form. -/
theorem memWfFrom_memSetByte {lo : Nat} {m : Mem} (h : memWfFrom lo m = true) {a : Nat} (b : Byte) (ha : a < 2 ^ 56)
    (hlo : lo ≤ a) : memWfFrom lo (memSetByte m a b) = true := by
  induction m generalizing lo with
  | nil =>
    by_cases hb : b = unwrittenByte
    · simp [memSetByte, hb, memWfFrom]
    · rw [memSetByte, if_neg hb]
      exact memWfFrom_cons.2 ⟨hlo, ha, hb, rfl⟩
  | cons c m ih =>
    obtain ⟨k, v⟩ := c
    obtain ⟨h1, h2, h3, h4⟩ := memWfFrom_cons.1 h
    rw [memSetByte]
    split
    · exact memWfFrom_cons.2 ⟨h1, h2, h3, ih h4 (by omega)⟩
    · split
      · split
        · exact memWfFrom_mono h4 (by omega)
        · exact memWfFrom_cons.2 ⟨hlo, ha, by assumption, by simpa [*] using h4⟩
      · split
        · exact h
        · exact memWfFrom_cons.2 ⟨hlo, ha, by assumption, memWfFrom_cons.2 ⟨by omega, h2, h3, h4⟩⟩

/-- Memories of the one form that read alike are equal. -/
theorem mem_ext {lo : Nat} {m m' : Mem} (h : memWfFrom lo m = true) (h' : memWfFrom lo m' = true)
    (hb : ∀ a, memByte m a = memByte m' a) : m = m' := by
  induction m generalizing lo m' with
  | nil =>
    cases m' with
    | nil => rfl
    | cons c m' =>
      obtain ⟨k, v⟩ := c
      obtain ⟨-, -, h3, -⟩ := memWfFrom_cons.1 h'
      have := hb k
      simp [memByte] at this
      exact absurd this.symm h3
  | cons c m ih =>
    obtain ⟨k, v⟩ := c
    obtain ⟨g1, g2, g3, g4⟩ := memWfFrom_cons.1 h
    cases m' with
    | nil => exact absurd (by simpa [memByte] using hb k) g3
    | cons c' m' =>
      obtain ⟨k', v'⟩ := c'
      obtain ⟨f1, f2, f3, f4⟩ := memWfFrom_cons.1 h'
      have hk : k = k' := by
        rcases Nat.lt_trichotomy k k' with hlt | heq | hgt
        · have e := hb k
          rw [memByte, if_pos rfl, memByte, if_neg (by omega), memByte_below f4 (by omega)] at e
          exact absurd e g3
        · exact heq
        · have e := hb k'
          rw [memByte, if_neg (by omega), memByte, if_pos rfl, memByte_below g4 (by omega)] at e
          exact absurd e.symm f3
      subst hk
      have hv : v = v' := by simpa [memByte] using hb k
      subst hv
      rw [ih g4 f4]
      intro a
      by_cases ha : a ≤ k
      · rw [memByte_below g4 (by omega), memByte_below f4 (by omega)]
      · simpa [memByte, show k ≠ a by omega] using hb a

/-! ### Words -/

/-- The first `n` bytes of a word stored at `a`: those bytes read as the word's, every other byte as before. -/
theorem memByte_memSetBytes {m : Mem} (h : memWf m = true) (a : Nat) (v : Word) (n : Nat) (ha : a + n ≤ 2 ^ 56) :
    memWf (memSetBytes m a v n) = true ∧
      ∀ x, memByte (memSetBytes m a v n) x = if a ≤ x ∧ x < a + n then wordByte v (x - a) else memByte m x := by
  induction n with
  | zero => exact ⟨h, fun x => by rw [memSetBytes, if_neg (by omega)]⟩
  | succ n ih =>
    obtain ⟨hw, hx⟩ := ih (by omega)
    refine ⟨memWfFrom_memSetByte hw _ (by omega) (by omega), fun x => ?_⟩
    rw [memSetBytes, memByte_memSetByte hw, hx]
    by_cases e : x = a + n
    · subst e; simp
    · rw [if_neg e]; congr 1; simp only [eq_iff_iff]; omega

/-- A word write inside the address space keeps the form. -/
theorem memWf_memSetWord {m : Mem} (h : memWf m = true) {a : Nat} (v : Word) (ha : a + 8 ≤ 2 ^ 56) :
    memWf (memSetWord m a v) = true := (memByte_memSetBytes h a v 8 ha).1

/-- Every byte after a word write (20_memory.md R52). -/
theorem memByte_memSetWord {m : Mem} (h : memWf m = true) {a : Nat} (v : Word) (ha : a + 8 ≤ 2 ^ 56) (x : Nat) :
    memByte (memSetWord m a v) x = if a ≤ x ∧ x < a + 8 then wordByte v (x - a) else memByte m x :=
  (memByte_memSetBytes h a v 8 ha).2 x

/-- A word is its eight bytes. -/
theorem word_of_bytes (v : Word) :
    wordByte v 7 ++ (wordByte v 6 ++ (wordByte v 5 ++ (wordByte v 4 ++ (wordByte v 3 ++ (wordByte v 2 ++
      (wordByte v 1 ++ wordByte v 0)))))) = v := by
  apply BitVec.eq_of_getLsbD_eq
  intro i hi
  simp only [wordByte, BitVec.getLsbD_append, BitVec.getLsbD_extractLsb']
  interval_cases i <;> simp

/-- A word read after a word write to the same place gives the value written. -/
theorem memWord_memSetWord_same {m : Mem} (h : memWf m = true) {a : Nat} (v : Word) (ha : a + 8 ≤ 2 ^ 56) :
    memWord (memSetWord m a v) a = v := by
  simp only [memWord, memByte_memSetWord h v ha]
  simpa using word_of_bytes v

/-- A word read depends on its eight bytes alone. -/
theorem memWord_congr {m m' : Mem} {a : Nat} (h : ∀ i < 8, memByte m (a + i) = memByte m' (a + i)) :
    memWord m a = memWord m' a := by
  have h0 := h 0 (by omega)
  rw [Nat.add_zero] at h0
  rw [memWord, memWord, h0, h 1 (by omega), h 2 (by omega), h 3 (by omega), h 4 (by omega), h 5 (by omega),
    h 6 (by omega), h 7 (by omega)]

/-- A word write leaves every other aligned word alone. -/
theorem memWord_memSetWord_other {m : Mem} (h : memWf m = true) {a a' : Nat} (v : Word) (ha : a + 8 ≤ 2 ^ 56)
    (hd : a' + 8 ≤ a ∨ a + 8 ≤ a') : memWord (memSetWord m a v) a' = memWord m a' := by
  apply memWord_congr
  intro i hi
  rw [memByte_memSetWord h v ha, if_neg (by omega)]

/-! ### The zeroed frame -/

theorem memByte_filter_frame (m : Mem) (p a : Nat) {lo : Nat} (h : memWfFrom lo m = true) :
    memByte (m.filter fun c => decide (c.1 / 4096 ≠ p)) a = if a / 4096 = p then unwrittenByte else memByte m a := by
  induction m generalizing lo with
  | nil => simp [memByte]
  | cons c m ih =>
    obtain ⟨k, v⟩ := c
    have ih' := ih (memWfFrom_cons.1 h).2.2.2
    by_cases hk : k / 4096 = p
    · rw [List.filter_cons_of_neg (by simp [hk]), ih', memByte]
      by_cases hka : k = a
      · subst hka; simp [hk]
      · rw [if_neg hka]
    · rw [List.filter_cons_of_pos (by simp [hk]), memByte, ih', memByte]
      by_cases hka : k = a
      · subst hka; simp [hk]
      · rw [if_neg hka, if_neg hka]

theorem memWfFrom_filter {lo : Nat} {m : Mem} (f : Host.Cell → Bool) (h : memWfFrom lo m = true) :
    memWfFrom lo (m.filter f) = true := by
  induction m generalizing lo with
  | nil => exact h
  | cons c m ih =>
    obtain ⟨k, v⟩ := c
    obtain ⟨h1, h2, h3, h4⟩ := memWfFrom_cons.1 h
    by_cases hf : f (k, v) = true
    · rw [List.filter_cons_of_pos hf]
      exact memWfFrom_cons.2 ⟨h1, h2, h3, ih h4⟩
    · rw [List.filter_cons_of_neg hf]
      exact memWfFrom_mono (ih h4) (by omega)

/-- A zeroed frame keeps the form. -/
theorem memWf_memZeroFrame {m : Mem} (h : memWf m = true) (p : Ppn) : memWf (memZeroFrame m p) = true :=
  memWfFrom_filter _ h

/-- Every byte after a frame is zeroed (41_walker.md R135). -/
theorem memByte_memZeroFrame {m : Mem} (h : memWf m = true) (p : Ppn) (a : Nat) :
    memByte (memZeroFrame m p) a = if a / 4096 = p.toNat then 0 else memByte m a := memByte_filter_frame m _ a h

end Sys2Proof.Machine
end

