-- ==== Sys2Proof/Laws/Address.lean ====
section
/-! SUPPORT. The laws of the address forms and of the entry codec as arithmetic. -/

namespace Sys2Proof.Machine

/-! ### Entry addresses -/

/-- An entry's address as a number (20_memory.md R51, R53). -/
theorem entryPa_toNat (node : Ppn) (idx : Idx) : (entryPa node idx).toNat = node.toNat * 4096 + idx.toNat * 8 := by
  have h1 := node.isLt
  have h2 := idx.isLt
  have e1 : (node.setWidth 56 <<< 12 : Pa).toNat = node.toNat * 4096 := by
    simp [BitVec.toNat_shiftLeft, Nat.shiftLeft_eq]; omega
  have e2 : (idx.setWidth 56 <<< 3 : Pa).toNat = idx.toNat * 8 := by
    simp [BitVec.toNat_shiftLeft, Nat.shiftLeft_eq]; omega
  have := Nat.shiftLeft_add_eq_or_of_lt (show idx.toNat * 8 < 2 ^ 12 by omega) node.toNat
  rw [Nat.shiftLeft_eq] at this
  rw [entryPa, BitVec.toNat_or, e1, e2, ← this]

/-- An entry lies inside the address space (R53: "never overflows 56 bits"). -/
theorem entryPa_inside (node : Ppn) (idx : Idx) : (entryPa node idx).toNat + 8 ≤ 2 ^ 56 := by
  have h1 := node.isLt
  have h2 := idx.isLt
  rw [entryPa_toNat]; omega

theorem entryPa_aligned (node : Ppn) (idx : Idx) : (entryPa node idx).toNat % 8 = 0 := by
  rw [entryPa_toNat]; omega

/-- An address lies in an entry exactly when it lies in the entry's frame at the entry's index. -/
theorem inside_entryPa_iff (node : Ppn) (idx : Idx) (a : Nat) :
    ((entryPa node idx).toNat ≤ a ∧ a < (entryPa node idx).toNat + 8) ↔
      a / 4096 = node.toNat ∧ a / 8 % 512 = idx.toNat := by
  have h2 := idx.isLt
  rw [entryPa_toNat]; omega

/-- Different slots have different addresses. -/
theorem entryPa_inj {node node' : Ppn} {idx idx' : Idx} (h : entryPa node idx = entryPa node' idx') :
    node = node' ∧ idx = idx' := by
  have h1 := idx.isLt
  have h2 := idx'.isLt
  have e := congrArg BitVec.toNat h
  rw [entryPa_toNat, entryPa_toNat] at e
  exact ⟨BitVec.eq_of_toNat_eq (by omega), BitVec.eq_of_toNat_eq (by omega)⟩

/-- Different slots do not overlap. -/
theorem entryPa_disjoint {node node' : Ppn} {idx idx' : Idx} (h : ¬(node = node' ∧ idx = idx')) :
    (entryPa node' idx').toNat + 8 ≤ (entryPa node idx).toNat ∨ (entryPa node idx).toNat + 8 ≤ (entryPa node' idx').toNat := by
  have h1 := idx.isLt
  have h2 := idx'.isLt
  have : ¬(node.toNat = node'.toNat ∧ idx.toNat = idx'.toNat) := fun ⟨a, b⟩ =>
    h ⟨BitVec.eq_of_toNat_eq a, BitVec.eq_of_toNat_eq b⟩
  rw [entryPa_toNat, entryPa_toNat]; omega

/-! ### Entries in memory -/

/-- An entry reads back as written. -/
theorem memWord_entry_same {m : Mem} (h : memWf m = true) (node : Ppn) (idx : Idx) (v : Word) :
    memWord (memSetWord m (entryPa node idx).toNat v) (entryPa node idx).toNat = v :=
  memWord_memSetWord_same h v (entryPa_inside node idx)

/-- A write of one entry leaves every other entry alone. -/
theorem memWord_entry_other {m : Mem} (h : memWf m = true) {node node' : Ppn} {idx idx' : Idx} (v : Word)
    (hd : ¬(node = node' ∧ idx = idx')) :
    memWord (memSetWord m (entryPa node idx).toNat v) (entryPa node' idx').toNat = memWord m (entryPa node' idx').toNat :=
  memWord_memSetWord_other h v (entryPa_inside node idx) (entryPa_disjoint hd)

/-- Every entry of a zeroed frame is 0. -/
theorem memWord_zeroFrame_inside {m : Mem} (h : memWf m = true) (p : Ppn) (idx : Idx) :
    memWord (memZeroFrame m p) (entryPa p idx).toNat = 0 := by
  have h2 := idx.isLt
  have e := entryPa_toNat p idx
  have hz : ∀ i < 8, memByte (memZeroFrame m p) ((entryPa p idx).toNat + i) = 0 := fun i hi => by
    rw [memByte_memZeroFrame h, if_pos (by omega)]
  have := memWord_congr (m := memZeroFrame m p) (m' := []) (a := (entryPa p idx).toNat) hz
  rw [this]
  simp [memWord, memByte, unwrittenByte]

/-- Zeroing a frame leaves every entry of another frame alone. -/
theorem memWord_zeroFrame_outside {m : Mem} (h : memWf m = true) {p node : Ppn} (idx : Idx) (hn : node ≠ p) :
    memWord (memZeroFrame m p) (entryPa node idx).toNat = memWord m (entryPa node idx).toNat := by
  have h2 := idx.isLt
  have e := entryPa_toNat node idx
  have hne : node.toNat ≠ p.toNat := fun hc => hn (BitVec.eq_of_toNat_eq hc)
  apply memWord_congr
  intro i hi
  rw [memByte_memZeroFrame h, if_neg (by omega)]

/-- The first `n` zero writes into a frame: its first `n` entries are 0, every other byte is as before. -/
theorem memByte_zeroWrites {m : Mem} (h : memWf m = true) (p : Ppn) (n : Nat) (hn : n ≤ 512) :
    memWf (zeroWrites m p n) = true ∧
      ∀ a, memByte (zeroWrites m p n) a = if a / 4096 = p.toNat ∧ a / 8 % 512 < n then 0 else memByte m a := by
  induction n with
  | zero => exact ⟨h, fun a => by rw [zeroWrites, if_neg (by omega)]⟩
  | succ n ih =>
    obtain ⟨hw, hb⟩ := ih (by omega)
    have hi : (BitVec.ofNat 9 n).toNat = n := by simp; omega
    rw [zeroWrites]
    refine ⟨memWf_memSetWord hw 0 (entryPa_inside _ _), fun a => ?_⟩
    rw [memByte_memSetWord hw 0 (entryPa_inside _ _), hb]
    simp only [inside_entryPa_iff, hi]
    by_cases h1 : a / 4096 = p.toNat ∧ a / 8 % 512 = n
    · rw [if_pos h1, if_pos (by omega)]; simp [wordByte]
    · rw [if_neg h1]; congr 1; simp only [eq_iff_iff]; omega

/-- Zeroing the frame at once is the 512 zero writes of 41_walker.md R135, on every memory of the one form. -/
theorem memZeroFrame_eq_zeroWrites {m : Mem} (h : memWf m = true) (p : Ppn) :
    memZeroFrame m p = zeroWrites m p 512 := by
  obtain ⟨n, hn⟩ : ∃ n, n = 512 := ⟨_, rfl⟩
  rw [← hn]
  obtain ⟨hw, hb⟩ := memByte_zeroWrites h p n (by omega)
  refine mem_ext (lo := 0) (memWf_memZeroFrame h p) hw fun a => ?_
  rw [memByte_memZeroFrame h, hb]
  congr 1
  simp only [eq_iff_iff]
  omega

/-! ### The codec as arithmetic -/

/-- `ENCODE` as a number (40_pte_codec.md R100). -/
theorem pteEncode_toNat (ppn : Ppn) (flags : Flags) : (pteEncode ppn flags).toNat = ppn.toNat * 2 ^ 10 + flags.toNat := by
  have h1 := ppn.isLt
  have h2 := flags.isLt
  have := Nat.shiftLeft_add_eq_or_of_lt (show flags.toNat < 2 ^ 10 from h2) ppn.toNat
  rw [Nat.shiftLeft_eq] at this
  rw [pteEncode, BitVec.toNat_setWidth, BitVec.toNat_append, Nat.shiftLeft_eq, ← this, Nat.mod_eq_of_lt (by omega)]

/-- The PPN field as a number (R102). -/
theorem ptePpn_toNat (raw : Word) : (ptePpn raw).toNat = raw.toNat / 2 ^ 10 % 2 ^ 44 := by
  rw [ptePpn, BitVec.extractLsb'_toNat, Nat.shiftRight_eq_div_pow]

/-- The flags field as a number (R102). -/
theorem pteFlags_toNat (raw : Word) : (pteFlags raw).toNat = raw.toNat % 2 ^ 10 := by
  rw [pteFlags, BitVec.extractLsb'_toNat, Nat.shiftRight_eq_div_pow, Nat.pow_zero, Nat.div_one]

theorem pteV_eq (raw : Word) : pteV raw = decide (raw.toNat % 2 = 1) := by
  rw [pteV, BitVec.getLsbD, Nat.testBit_zero]

theorem pteRwx_toNat (raw : Word) : (raw.extractLsb' 1 3).toNat = raw.toNat / 2 % 8 := by
  rw [BitVec.extractLsb'_toNat, Nat.shiftRight_eq_div_pow]

theorem pteRwx_eq_zero (raw : Word) : raw.extractLsb' 1 3 = 0#3 ↔ raw.toNat / 2 % 8 = 0 := by
  rw [← pteRwx_toNat, ← BitVec.toNat_inj]; simp

/-- The PPN argument that `ENCODE` packs, as a number (R100). -/
theorem encPpnLow_toNat (ppn : Word) : (encPpnLow ppn).toNat = ppn.toNat % 2 ^ 44 := by
  rw [encPpnLow, BitVec.extractLsb'_toNat, Nat.shiftRight_eq_div_pow, Nat.pow_zero, Nat.div_one]

/-- The range assertion of `PA_TO_PPN` as a bound (R107). -/
theorem paOutOfRange_eq (pa : Word) : paOutOfRange pa = decide (2 ^ 56 ≤ pa.toNat) := by
  have h := pa.isLt
  have e : (pa.extractLsb' 56 8).toNat = pa.toNat / 2 ^ 56 % 2 ^ 8 := by
    rw [BitVec.extractLsb'_toNat, Nat.shiftRight_eq_div_pow]
  rw [paOutOfRange, decide_eq_decide, ne_eq, ← BitVec.toNat_inj, e]
  simp; omega

theorem paPpn_toNat (pa : Word) : (paPpn pa).toNat = pa.toNat / 2 ^ 12 % 2 ^ 44 := by
  rw [paPpn, BitVec.extractLsb'_toNat, Nat.shiftRight_eq_div_pow]

theorem paOff_toNat (pa : Word) : (paOff pa).toNat = pa.toNat % 2 ^ 12 := by
  rw [paOff, BitVec.extractLsb'_toNat, Nat.shiftRight_eq_div_pow, Nat.pow_zero, Nat.div_one]

/-- The alignment flag as a remainder (R107). -/
theorem paUnaligned_eq (pa : Word) : paUnaligned pa = decide (pa.toNat % 2 ^ 12 ≠ 0) := by
  rw [paUnaligned, decide_eq_decide, ne_eq, ← BitVec.toNat_inj, paOff_toNat]; simp

/-! ### Virtual addresses as arithmetic -/

/-- An index as a number (30_encoding.md R92). -/
theorem vpnAt_toNat (va : Word) (l : Nat) : (vpnAt va l).toNat = va.toNat / 2 ^ (12 + 9 * l) % 512 := by
  rw [vpnAt, BitVec.extractLsb'_toNat, Nat.shiftRight_eq_div_pow]

@[simp] theorem vpn_two (va : Word) : vpn va 2#2 = vpnAt va 2 := rfl

@[simp] theorem vpn_one (va : Word) : vpn va 1#2 = vpnAt va 1 := rfl

@[simp] theorem vpn_zero (va : Word) : vpn va 0#2 = vpnAt va 0 := rfl

theorem vaOff_toNat (va : Word) : (vaOff va).toNat = va.toNat % 2 ^ 12 := by
  rw [vaOff, BitVec.extractLsb'_toNat, Nat.shiftRight_eq_div_pow, Nat.pow_zero, Nat.div_one]

/-- The canonical form as two ranges (41_walker.md R131). -/
theorem canonical_eq (va : Word) : canonical va = decide (va.toNat < 2 ^ 38 ∨ 2 ^ 64 - 2 ^ 38 ≤ va.toNat) := by
  have h := va.isLt
  have e : (va.extractLsb' 39 25).toNat = va.toNat / 2 ^ 39 % 2 ^ 25 := by
    rw [BitVec.extractLsb'_toNat, Nat.shiftRight_eq_div_pow]
  have b : va.getLsbD 38 = decide (va.toNat / 2 ^ 38 % 2 = 1) := by
    rw [BitVec.getLsbD, Nat.testBit_eq_decide_div_mod_eq]
  rw [canonical, decide_eq_decide, ← BitVec.toNat_inj, e, b]
  by_cases hb : va.toNat / 2 ^ 38 % 2 = 1
  · rw [if_pos (decide_eq_true hb), show (BitVec.allOnes 25).toNat = 2 ^ 25 - 1 from rfl]; omega
  · rw [if_neg (by simpa using hb), show (0 : BitVec 25).toNat = 0 from rfl]; omega

/-- The canonical form depends on the page alone. -/
theorem canonical_congr {va va' : Word} (h : va.toNat / 4096 = va'.toNat / 4096) : canonical va = canonical va' := by
  rw [canonical_eq, canonical_eq, decide_eq_decide]; omega

/-- An index depends on the page alone. -/
theorem vpnAt_congr {va va' : Word} (h : va.toNat / 4096 = va'.toNat / 4096) (l : Nat) : vpnAt va l = vpnAt va' l := by
  apply BitVec.eq_of_toNat_eq
  rw [vpnAt_toNat, vpnAt_toNat, Nat.pow_add, ← Nat.div_div_eq_div_mul, ← Nat.div_div_eq_div_mul]
  have e : va.toNat / 2 ^ 12 = va'.toNat / 2 ^ 12 := h
  rw [e]

/-- The PPN of an encoded entry. -/
@[simp] theorem ptePpn_pteEncode (ppn : Ppn) (flags : Flags) : ptePpn (pteEncode ppn flags) = ppn := by
  have h1 := ppn.isLt
  have h2 := flags.isLt
  apply BitVec.eq_of_toNat_eq
  rw [ptePpn_toNat, pteEncode_toNat]; omega

/-- The flags of an encoded entry. -/
@[simp] theorem pteFlags_pteEncode (ppn : Ppn) (flags : Flags) : pteFlags (pteEncode ppn flags) = flags := by
  have h2 := flags.isLt
  apply BitVec.eq_of_toNat_eq
  rw [pteFlags_toNat, pteEncode_toNat]; omega

/-- `RSVD` of an encoded entry is 0 (R82). -/
@[simp] theorem pteRsvd_pteEncode (ppn : Ppn) (flags : Flags) : pteRsvd (pteEncode ppn flags) = 0 := by
  have h1 := ppn.isLt
  have h2 := flags.isLt
  apply BitVec.eq_of_toNat_eq
  rw [pteRsvd, BitVec.extractLsb'_toNat, Nat.shiftRight_eq_div_pow, pteEncode_toNat]
  simp; omega

/-- The branch entry as a number (40_pte_codec.md R100 with `V` alone). -/
theorem branchEntry_toNat (p : Ppn) : (branchEntry p).toNat = p.toNat * 2 ^ 10 + 1 := pteEncode_toNat p flagsV

/-- A byte of a word as a number. -/
theorem wordByte_eq (v : Word) (i : Nat) : wordByte v i = BitVec.ofNat 8 (v.toNat / 2 ^ (8 * i)) := by
  apply BitVec.eq_of_toNat_eq
  rw [wordByte, BitVec.extractLsb'_toNat, Nat.shiftRight_eq_div_pow]; simp

/-- The entry the walker installs is present and has no R, W or X: a branch (R147). -/
@[simp] theorem branchEntry_isBranch (p : Ppn) : pteIsBranch (branchEntry p) = true := by
  have h := branchEntry_toNat p
  have h3 : (branchEntry p).extractLsb' 1 3 = 0 := by
    apply BitVec.eq_of_toNat_eq
    rw [pteRwx_toNat, h]; simp; omega
  rw [pteIsBranch, pteV_eq, h, h3]
  simp; omega

@[simp] theorem ptePpn_branchEntry (p : Ppn) : ptePpn (branchEntry p) = p := ptePpn_pteEncode p flagsV

/-- The three tests in terms of `V` and R/W/X. -/
theorem kind_cases (raw : Word) :
    (pteIsEmpty raw = true ∧ pteIsBranch raw = false ∧ pteIsLeaf raw = false) ∨
    (pteIsEmpty raw = false ∧ pteIsBranch raw = true ∧ pteIsLeaf raw = false) ∨
    (pteIsEmpty raw = false ∧ pteIsBranch raw = false ∧ pteIsLeaf raw = true) := by
  unfold pteIsEmpty pteIsBranch pteIsLeaf
  cases pteV raw <;> simp
  exact em _

end Sys2Proof.Machine
end

