-- ==== Sys2Proof/Laws/Decode.lean ====
section
/-! SUPPORT. Operation words as numbers: every field of a word, and every word `encode` writes, in arithmetic, so that
proofs about the encoding are arithmetic. -/

namespace Sys2Proof

/-! ### Fields -/

theorem OpWord.opid_toNat (w : OpWord) : w.opid.toNat = w.toNat % 16 := by
  rw [OpWord.opid, BitVec.extractLsb'_toNat, Nat.shiftRight_eq_div_pow]; simp

theorem OpWord.word_toNat (w : OpWord) : w.word.toNat = w.toNat / 2 ^ 4 % 2 ^ 64 := by
  rw [OpWord.word, BitVec.extractLsb'_toNat, Nat.shiftRight_eq_div_pow]

theorem OpWord.flags_toNat (w : OpWord) : w.flags.toNat = w.toNat / 2 ^ 68 % 2 ^ 10 := by
  rw [OpWord.flags, BitVec.extractLsb'_toNat, Nat.shiftRight_eq_div_pow]

theorem OpWord.catPpn_toNat (w : OpWord) : w.catPpn.toNat = w.toNat / 2 ^ 4 % 2 ^ 44 := by
  rw [OpWord.catPpn, BitVec.extractLsb'_toNat, Nat.shiftRight_eq_div_pow]

theorem OpWord.catOff_toNat (w : OpWord) : w.catOff.toNat = w.toNat / 2 ^ 48 % 2 ^ 12 := by
  rw [OpWord.catOff, BitVec.extractLsb'_toNat, Nat.shiftRight_eq_div_pow]

theorem OpWord.root_toNat (w : OpWord) : w.root.toNat = w.toNat / 2 ^ 68 % 2 ^ 44 := by
  rw [OpWord.root, BitVec.extractLsb'_toNat, Nat.shiftRight_eq_div_pow]

/-! ### Words -/

/-- A concatenation as a number. -/
theorem append_toNat {m n : Nat} (x : BitVec m) (y : BitVec n) : (x ++ y).toNat = x.toNat * 2 ^ n + y.toNat := by
  have := Nat.shiftLeft_add_eq_or_of_lt y.isLt x.toNat
  rw [BitVec.toNat_append, ← this, Nat.shiftLeft_eq]

theorem packWord_toNat (o : BitVec 4) (v : Word) : (packWord o v).toNat = v.toNat * 2 ^ 4 + o.toNat := by
  have h1 := v.isLt
  have h2 := o.isLt
  rw [packWord, BitVec.toNat_setWidth, append_toNat, Nat.mod_eq_of_lt (by omega)]

theorem packWalk_toNat (o : BitVec 4) (va : Word) (root : Ppn) :
    (packWalk o va root).toNat = root.toNat * 2 ^ 68 + va.toNat * 2 ^ 4 + o.toNat := by
  have e : (packWalk o va root).toNat = (root ++ (va ++ o)).toNat := rfl
  rw [e, append_toNat, append_toNat]; omega

theorem encode_encode_toNat (ppn : Word) (flags : Flags) :
    (encode (.encode ppn flags)).toNat = flags.toNat * 2 ^ 68 + ppn.toNat * 2 ^ 4 := by
  have h1 := ppn.isLt
  have h2 := flags.isLt
  rw [encode, BitVec.toNat_setWidth, append_toNat, append_toNat, Nat.mod_eq_of_lt (by simp; omega)]
  simp

theorem encode_ppnToPa_toNat (ppn : Ppn) (off : Off) :
    (encode (.ppnToPa ppn off)).toNat = off.toNat * 2 ^ 48 + ppn.toNat * 2 ^ 4 + 6 := by
  have h1 := ppn.isLt
  have h2 := off.isLt
  rw [encode, BitVec.toNat_setWidth, append_toNat, append_toNat, Nat.mod_eq_of_lt (by simp; omega)]
  simp; omega

end Sys2Proof
end

