-- ==== Sys2Proof/Laws/Walk.lean ====
section
/-! SUPPORT. What the shared operations and the walks can do, said once each: an equation where the hypotheses decide the
outcome, and an inversion lemma ("if it answers next t, then ...") where they do not. -/

namespace Sys2Proof.Machine

/-! ### Sequencing -/

@[simp] theorem andThen_next (s : State) (k : State → Out) : andThen (.next s) k = k s := rfl
@[simp] theorem andThen_fault (f : Fault) (k : State → Out) : andThen (.fault f) k = .fault f := rfl
@[simp] theorem andThen_refused (r : Refusal) (k : State → Out) : andThen (.refused r) k = .refused r := rfl

theorem andThen_eq_next {o : Out} {k : State → Out} {t : State} (h : andThen o k = .next t) :
    ∃ s, o = .next s ∧ k s = .next t := by
  cases o with
  | next s => exact ⟨s, rfl, h⟩
  | fault f => exact nomatch h
  | refused r => exact nomatch h

/-! ### The allocator -/

/-- The allocator's answer changes the allocator alone. -/
theorem nextAnswer_only {s s' : State} {a : AllocAnswer} (h : nextAnswer s = some (a, s')) :
    s' = { s with allocScript := s'.allocScript, allocDraws := s'.allocDraws } := by
  unfold nextAnswer at h
  split at h
  · injection h with h; injection h with _ h; subst h; rfl
  · exact nomatch h
  · injection h with h; injection h with _ h; subst h; rfl

/-- The frame of an allocator's answer. -/
theorem nextAnswer_frame {s s' : State} {a : AllocAnswer} (h : nextAnswer s = some (a, s')) :
    s'.mem = s.mem ∧ s'.txns = s.txns ∧ s'.walker = s.walker ∧ s'.result = s.result ∧ walkKeeps s s' := by
  rw [nextAnswer_only h]; simp [walkKeeps]

/-- The allocator's answer depends on the allocator alone. -/
theorem nextAnswer_congr {s s' t : State} {a : AllocAnswer} (h : nextAnswer s = some (a, s'))
    (h1 : t.allocScript = s.allocScript) (h2 : t.allocDraws = s.allocDraws) :
    nextAnswer t = some (a, { t with allocScript := s'.allocScript, allocDraws := s'.allocDraws }) := by
  unfold nextAnswer at h ⊢
  rw [h1, h2]
  split at h
  · injection h with h; injection h with h3 h; subst h; subst h3; simp [*]
  · exact nomatch h
  · injection h with h; injection h with h3 h; subst h; subst h3; simp [*]

/-- An allocator without a script answers. -/
theorem nextAnswer_free {s : State} (h : s.allocScript = none) :
    nextAnswer s = some (Config.allocDraw s.allocDraws, { s with allocDraws := s.allocDraws + 1 }) := by
  unfold nextAnswer; rw [h]

theorem allocFrame_of_answer {s s' : State} {a : AllocAnswer} (h : nextAnswer s = some (a, s'))
    (k : AllocAnswer → State → Out) : allocFrame s k = k a (record (.alloc a) s') := by
  rw [allocFrame, h]

theorem allocFrame_eq_next {s t : State} {k : AllocAnswer → State → Out} (h : allocFrame s k = .next t) :
    ∃ a s', nextAnswer s = some (a, s') ∧ k a (record (.alloc a) s') = .next t := by
  unfold allocFrame at h
  split at h
  · exact ⟨_, _, by assumption, h⟩
  · exact nomatch h

/-! ### Memory transactions -/

theorem portRead_of_admits {pa : Pa} {s : State} (h : admits s.platform pa = true) (k : Word → State → Out) :
    portRead pa s k = k (memWord s.mem pa.toNat) (record (.read pa (memWord s.mem pa.toNat)) (openRead s)) := by
  rw [portRead, if_pos h]

theorem portRead_eq_next {pa : Pa} {s t : State} {k : Word → State → Out} (h : portRead pa s k = .next t) :
    admits s.platform pa = true ∧
      k (memWord s.mem pa.toNat) (record (.read pa (memWord s.mem pa.toNat)) (openRead s)) = .next t := by
  unfold portRead at h
  split at h
  · exact ⟨by assumption, h⟩
  · exact nomatch h

theorem portWrite_of_admits {pa : Pa} {v : Word} {s : State} (h : admits s.platform pa = true) (k : State → Out) :
    portWrite pa v s k = k (performWrite pa v s) := by
  rw [portWrite, if_pos h]

theorem portWrite_eq_next {pa : Pa} {v : Word} {s t : State} {k : State → Out} (h : portWrite pa v s k = .next t) :
    admits s.platform pa = true ∧ k (performWrite pa v s) = .next t := by
  unfold portWrite at h
  split at h
  · exact ⟨by assumption, h⟩
  · exact nomatch h

theorem portZeroFrame_of_admits {p : Ppn} {s : State} (h : frameAdmitted s.platform p = true) (k : State → Out) :
    portZeroFrame p s k = k (zeroed p s) := by
  rw [portZeroFrame, if_pos h]

theorem portZeroFrame_eq_next {p : Ppn} {s t : State} {k : State → Out} (h : portZeroFrame p s k = .next t) :
    frameAdmitted s.platform p = true ∧ k (zeroed p s) = .next t := by
  unfold portZeroFrame at h
  by_cases hf : frameAdmitted s.platform p = true
  · rw [if_pos hf] at h; exact ⟨hf, h⟩
  · rw [if_neg hf] at h; exact nomatch h

/-- Memory that serves every address serves every frame. -/
theorem frameAdmitted_of_all {p : Platform} (h : ∀ pa, admits p pa = true) (new : Ppn) : frameAdmitted p new = true := by
  simp [frameAdmitted, h]

/-- A served frame serves each of its entries. -/
theorem admits_of_frameAdmitted {p : Platform} {new : Ppn} (h : frameAdmitted p new = true) (idx : Idx) :
    admits p (entryPa new idx) = true := by
  simp only [frameAdmitted, List.all_eq_true, List.mem_range] at h
  simpa using h idx.toNat idx.isLt

/-! ### The levels of a walk -/

/-- The state after the entry at level `level` has been read as `raw` (41_walker.md R133, R134). -/
def afterRead (level : Lvl) (s : State) : State :=
  setWalker (latchEntry (memWord s.mem (entryPa s.walker.nodeQ (vpn s.walker.vaQ level)).toNat) s.walker)
    (record (.read (entryPa s.walker.nodeQ (vpn s.walker.vaQ level))
      (memWord s.mem (entryPa s.walker.nodeQ (vpn s.walker.vaQ level)).toNat)) (openRead s))

/-- The entry that level `level` reads. -/
def entryAt (level : Lvl) (s : State) : Word := memWord s.mem (entryPa s.walker.nodeQ (vpn s.walker.vaQ level)).toNat

/-- The memory serves that entry. -/
def entryServed (level : Lvl) (s : State) : Prop :=
  admits s.platform (entryPa s.walker.nodeQ (vpn s.walker.vaQ level)) = true

/-- The state once a node has been made and its branch installed (R134). -/
def afterCreate (level below : Lvl) (new : Ppn) (s : State) : State :=
  descendInto new below (performWrite (entryPa s.walker.nodeQ (vpn s.walker.vaQ level)) (branchEntry new)
    (zeroed new (setWalker (latchZeroed new s.walker) s)))

/-- The end of a walk at the entry looked at. -/
def ended (status : Status) (level : Lvl) (node : Ppn) (idx : Idx) (s : State) : State :=
  takeResponse (setWalker (finish status level node idx s.walker) s)

@[simp] theorem ended_result (x : Status) (l : Lvl) (n : Ppn) (i : Idx) (s : State) :
    (ended x l n i s).result = .walk ⟨statusCode x, l, n, i, entryPa n i⟩ := rfl
@[simp] theorem ended_mem (x : Status) (l : Lvl) (n : Ppn) (i : Idx) (s : State) : (ended x l n i s).mem = s.mem := rfl
@[simp] theorem ended_txns (x : Status) (l : Lvl) (n : Ppn) (i : Idx) (s : State) : (ended x l n i s).txns = s.txns := rfl
@[simp] theorem ended_st (x : Status) (l : Lvl) (n : Ppn) (i : Idx) (s : State) :
    (ended x l n i s).walker.st = .idle := rfl

theorem respondOk_eq (s : State) :
    respondOk s = .next (ended .ok 0 s.walker.nodeQ (vpnAt s.walker.vaQ 0) s) := rfl

theorem respond_eq (status : Status) (level : Lvl) (node : Ppn) (idx : Idx) (s : State) :
    respond status level node idx s = .next (ended status level node idx s) := rfl

theorem readEntry_of_served {level : Lvl} {s : State} (h : entryServed level s) (k : Word → State → Out) :
    readEntry level s k = k (entryAt level s) (afterRead level s) := by
  rw [readEntry, portRead_of_admits h]; rfl

theorem readEntry_eq_next {level : Lvl} {s t : State} {k : Word → State → Out} (h : readEntry level s k = .next t) :
    entryServed level s ∧ k (entryAt level s) (afterRead level s) = .next t := portRead_eq_next h

/-- A read that is not served stops the walk (20_memory.md R57). -/
theorem readEntry_unserved {level : Lvl} {s : State} (h : ¬entryServed level s) (k : Word → State → Out) :
    readEntry level s k = .fault .memNeverAnswers := by
  rw [readEntry, portRead]; exact if_neg h

/-- One turn of the no-create loop, each way it can go. -/
theorem ncLevel_eq_next {level below : Lvl} {k : State → Out} {s t : State} (h : ncLevel level below k s = .next t) :
    entryServed level s ∧
    ((pteIsBranch (entryAt level s) = true ∧ k (descendInto (ptePpn (entryAt level s)) below (afterRead level s)) = .next t) ∨
     (pteIsEmpty (entryAt level s) = true ∧
       t = ended .notMapped level s.walker.nodeQ (vpn s.walker.vaQ level) (afterRead level s)) ∨
     (pteIsLeaf (entryAt level s) = true ∧
       t = ended .blockedBySuperpage level s.walker.nodeQ (vpn s.walker.vaQ level) (afterRead level s))) := by
  obtain ⟨h1, h2⟩ := readEntry_eq_next h
  refine ⟨h1, ?_⟩
  rcases kind_cases (entryAt level s) with ⟨he, hb, hl⟩ | ⟨he, hb, hl⟩ | ⟨he, hb, hl⟩ <;> simp [he, hb, hl] at h2 ⊢
  · rw [respondHere, respond_eq] at h2; injection h2 with h2; exact h2.symm
  · exact h2
  · rw [respondHere, respond_eq] at h2; injection h2 with h2; exact h2.symm

/-- Making a node, each way it can go. -/
theorem createNode_eq_next {level below : Lvl} {k : State → Out} {s t : State}
    (h : createNode level below k s = .next t) :
    ∃ a s', nextAnswer s = some (a, s') ∧
      ((a = .outOfMemory ∧ t = ended .outOfMemory level s.walker.nodeQ (vpn s.walker.vaQ level) (record (.alloc a) s')) ∨
       ∃ new, a = .ok new ∧ frameAdmitted s.platform new = true ∧ entryServed level s ∧
         k (afterCreate level below new (record (.alloc a) s')) = .next t) := by
  obtain ⟨a, s', h1, h2⟩ := allocFrame_eq_next h
  have hs := nextAnswer_only h1
  refine ⟨a, s', h1, ?_⟩
  cases a with
  | outOfMemory =>
    rw [hs] at h2 ⊢
    left
    simp only [respondHere, respond_eq] at h2
    injection h2 with h2
    exact ⟨rfl, h2.symm⟩
  | ok new =>
    right
    simp only at h2
    obtain ⟨h3, h4⟩ := portZeroFrame_eq_next h2
    obtain ⟨h5, h6⟩ := portWrite_eq_next h4
    refine ⟨new, rfl, ?_, ?_, h6⟩
    · rw [hs] at h3; exact h3
    · rw [hs] at h5; exact h5

/-- One turn of the create loop, each way it can go. -/
theorem cLevel_eq_next {level below : Lvl} {k : State → Out} {s t : State} (h : cLevel level below k s = .next t) :
    entryServed level s ∧
    ((pteIsBranch (entryAt level s) = true ∧ k (descendInto (ptePpn (entryAt level s)) below (afterRead level s)) = .next t) ∨
     (pteIsEmpty (entryAt level s) = true ∧ createNode level below k (afterRead level s) = .next t) ∨
     (pteIsLeaf (entryAt level s) = true ∧
       t = ended .blockedBySuperpage level s.walker.nodeQ (vpn s.walker.vaQ level) (afterRead level s))) := by
  obtain ⟨h1, h2⟩ := readEntry_eq_next h
  refine ⟨h1, ?_⟩
  rcases kind_cases (entryAt level s) with ⟨he, hb, hl⟩ | ⟨he, hb, hl⟩ | ⟨he, hb, hl⟩ <;> simp [he, hb, hl] at h2 ⊢
  · exact h2
  · exact h2
  · rw [respondHere, respond_eq] at h2; injection h2 with h2; exact h2.symm

/-! ### The levels of a walk, forward -/

theorem ncLevel_branch {level below : Lvl} {k : State → Out} {s : State} (h : entryServed level s)
    (hb : pteIsBranch (entryAt level s) = true) :
    ncLevel level below k s = k (descendInto (ptePpn (entryAt level s)) below (afterRead level s)) := by
  rw [ncLevel, readEntry_of_served h, if_pos hb]

theorem ncLevel_empty {level below : Lvl} {k : State → Out} {s : State} (h : entryServed level s)
    (he : pteIsEmpty (entryAt level s) = true) :
    ncLevel level below k s = .next (ended .notMapped level s.walker.nodeQ (vpn s.walker.vaQ level) (afterRead level s)) := by
  rw [ncLevel, readEntry_of_served h, if_neg, if_pos he]
  · rfl
  · rcases kind_cases (entryAt level s) with h' | h' | h' <;> simp_all

theorem ncLevel_leaf {level below : Lvl} {k : State → Out} {s : State} (h : entryServed level s)
    (hl : pteIsLeaf (entryAt level s) = true) :
    ncLevel level below k s =
      .next (ended .blockedBySuperpage level s.walker.nodeQ (vpn s.walker.vaQ level) (afterRead level s)) := by
  rw [ncLevel, readEntry_of_served h, if_neg, if_neg]
  · rfl
  all_goals rcases kind_cases (entryAt level s) with h' | h' | h' <;> simp_all

theorem cLevel_branch {level below : Lvl} {k : State → Out} {s : State} (h : entryServed level s)
    (hb : pteIsBranch (entryAt level s) = true) :
    cLevel level below k s = k (descendInto (ptePpn (entryAt level s)) below (afterRead level s)) := by
  rw [cLevel, readEntry_of_served h, if_pos hb]

theorem cLevel_empty {level below : Lvl} {k : State → Out} {s : State} (h : entryServed level s)
    (he : pteIsEmpty (entryAt level s) = true) : cLevel level below k s = createNode level below k (afterRead level s) := by
  rw [cLevel, readEntry_of_served h, if_neg, if_pos he]
  rcases kind_cases (entryAt level s) with h' | h' | h' <;> simp_all

theorem cLevel_leaf {level below : Lvl} {k : State → Out} {s : State} (h : entryServed level s)
    (hl : pteIsLeaf (entryAt level s) = true) :
    cLevel level below k s =
      .next (ended .blockedBySuperpage level s.walker.nodeQ (vpn s.walker.vaQ level) (afterRead level s)) := by
  rw [cLevel, readEntry_of_served h, if_neg, if_neg]
  · rfl
  all_goals rcases kind_cases (entryAt level s) with h' | h' | h' <;> simp_all

theorem createNode_refused {level below : Lvl} {k : State → Out} {s s' : State}
    (h : nextAnswer s = some (.outOfMemory, s')) :
    createNode level below k s =
      .next (ended .outOfMemory level s.walker.nodeQ (vpn s.walker.vaQ level) (record (.alloc .outOfMemory) s')) := by
  have hs := nextAnswer_only h
  rw [createNode, allocFrame_of_answer h]
  simp only [respondHere, respond_eq]
  rw [hs]; rfl

theorem createNode_granted {level below : Lvl} {k : State → Out} {s s' : State} {new : Ppn}
    (h : nextAnswer s = some (.ok new, s')) (hf : frameAdmitted s.platform new = true) (he : entryServed level s) :
    createNode level below k s = k (afterCreate level below new (record (.alloc (.ok new)) s')) := by
  have hs := nextAnswer_only h
  have e1 : s'.platform = s.platform := by rw [hs]
  have e2 : s'.walker = s.walker := by rw [hs]
  rw [createNode, allocFrame_of_answer h]
  simp only
  rw [portZeroFrame_of_admits (by simpa [e1] using hf), installBranch, portWrite_of_admits]
  · rfl
  · simpa [e1, e2, latchZeroed, entryServed] using he

/-! ### Whole walks -/

theorem awaitIdle_of_idle {s : State} (h : s.walker.st = .idle) : awaitIdle s = .next s := by
  unfold awaitIdle walkFuel untilIdle; rw [if_pos h]

theorem exec_walkNc_of_idle {s : State} (h : s.walker.st = .idle) (va : Word) (root : Ppn) :
    exec (.walkNc va root) s = checkCanonical (ncLevel 2 1 (ncLevel 1 0 respondOk)) (beginWalk va root false s) := by
  rw [exec, execWalkNc, awaitIdle_of_idle h, andThen_next]

theorem exec_walkC_of_idle {s : State} (h : s.walker.st = .idle) (va : Word) (root : Ppn) :
    exec (.walkC va root) s = checkCanonical (cLevel 2 1 (cLevel 1 0 respondOk)) (beginWalk va root true s) := by
  rw [exec, execWalkC, awaitIdle_of_idle h, andThen_next]

theorem checkCanonical_pos {k : State → Out} {s : State} (h : canonical s.walker.vaQ = true) :
    checkCanonical k s = k s := by
  rw [checkCanonical, if_pos h]

theorem checkCanonical_neg {k : State → Out} {s : State} (h : canonical s.walker.vaQ = false) :
    checkCanonical k s = .next (ended .invalidAddress 3 0 0 s) := by
  rw [checkCanonical, if_neg (by simp [h])]; rfl

/-- The check of the address, each way it can go. -/
theorem checkCanonical_eq_next {k : State → Out} {s t : State} (h : checkCanonical k s = .next t) :
    (canonical s.walker.vaQ = true ∧ k s = .next t) ∨
    (canonical s.walker.vaQ = false ∧ t = ended .invalidAddress 3 0 0 s) := by
  cases hc : canonical s.walker.vaQ
  · rw [checkCanonical_neg hc] at h; injection h with h; exact .inr ⟨rfl, h.symm⟩
  · rw [checkCanonical_pos hc] at h; exact .inl ⟨rfl, h⟩

/-- A walk that answers has waited for the walker to be `IDLE` and has then gone through its loop. -/
theorem exec_walk_eq_next {i : Instr} {va : Word} {root : Ppn} {s t : State} (hi : i = .walkNc va root ∨ i = .walkC va root)
    (h : exec i s = .next t) :
    ∃ u, awaitIdle s = .next u ∧
      ((i = .walkNc va root ∧
          checkCanonical (ncLevel 2 1 (ncLevel 1 0 respondOk)) (beginWalk va root false u) = .next t) ∨
       (i = .walkC va root ∧
          checkCanonical (cLevel 2 1 (cLevel 1 0 respondOk)) (beginWalk va root true u) = .next t)) := by
  rcases hi with rfl | rfl
  · obtain ⟨u, h1, h2⟩ := andThen_eq_next h; exact ⟨u, h1, .inl ⟨rfl, h2⟩⟩
  · obtain ⟨u, h1, h2⟩ := andThen_eq_next h; exact ⟨u, h1, .inr ⟨rfl, h2⟩⟩

end Sys2Proof.Machine
end

