-- ==== Sys2Proof/Laws/Edge.lean ====
section
/-! SUPPORT. The clocked walker: what one edge does in each state of the FSM, said once, and the walker left to an
environment that stalls nothing, one edge at a time. -/

namespace Sys2Proof.Machine

/-! ### One edge -/

/-- An edge that keeps the protocol is one whose memory response, if any, is the walker's own. -/
theorem clockEdge_own {p : Pins} {s : State} (hb : protocolBroken p s = false) : clockEdge p s = ownEdge p s := by
  have h : lateResponse p s = false := by simp_all [protocolBroken]
  simp [clockEdge, h]

/-- An edge without reset, fault or answer to an unadmitted request is the FSM's transition. -/
theorem clockEdge_fsm {p : Pins} {s : State} (hr : p.rst = false) (hb : protocolBroken p s = false)
    (hu : answersUnadmitted p s = false) : clockEdge p s = fsmEdge (setPins p (requestHeld p s) s) := by
  rw [clockEdge_own hb]; simp_all [ownEdge, protocolBroken]

/-- An edge with reset and without fault is the reset. -/
theorem clockEdge_rst {p : Pins} {s : State} (hr : p.rst = true) (hb : protocolBroken p s = false)
    (hu : answersUnadmitted p s = false) : clockEdge p s = .next (resetEdge (setPins p (requestHeld p s) s)) := by
  rw [clockEdge_own hb]; simp_all [ownEdge, protocolBroken]

/-- Everything an edge that goes on can be, a memory response being the walker's own. -/
theorem ownEdge_eq_next {p : Pins} {s t : State} (h : ownEdge p s = .next t) :
    portMisused p s = false ∧ answersUnadmitted p s = false ∧
    ((p.rst = true ∧ t = resetEdge (setPins p (requestHeld p s) s)) ∨
     (p.rst = false ∧ fsmEdge (setPins p (requestHeld p s) s) = .next t)) := by
  unfold ownEdge at h
  split at h
  · exact nomatch h
  · split at h
    · exact nomatch h
    · split at h
      · injection h with h; simp_all
      · simp_all

/-- Everything an edge that goes on can be. -/
theorem clockEdge_eq_next {p : Pins} {s t : State} (h : clockEdge p s = .next t) :
    protocolBroken p s = false ∧ answersUnadmitted p s = false ∧
    ((p.rst = true ∧ t = resetEdge (setPins p (requestHeld p s) s)) ∨
     (p.rst = false ∧ fsmEdge (setPins p (requestHeld p s) s) = .next t)) := by
  unfold clockEdge at h
  split at h
  · exact nomatch h
  · obtain ⟨hb, hu, ho⟩ := ownEdge_eq_next h
    exact ⟨by simp_all [protocolBroken], hu, ho⟩

/-- What a reset edge makes of a request in flight, each way it can go; the request is of an entry. -/
theorem settlePending_cases (s : State) :
    settlePending s = s ∨
    (∃ (node : Ppn) (idx : Idx) (v : Word), settlePending s = performWrite (entryPa node idx) v s) ∨
    ∃ (we : Bool) (node : Ppn) (idx : Idx) (v : Word), (we = false → v = 0) ∧
      settlePending s = { s with lateReqs := s.lateReqs ++ [⟨we, entryPa node idx, v⟩] } := by
  have hp : pendingRequest s.walker = none ∨
      ∃ (we : Bool) (node : Ppn) (idx : Idx) (v : Word), (we = false → v = 0) ∧
        pendingRequest s.walker = some ⟨we, entryPa node idx, v⟩ := by
    unfold pendingRequest requestOf memOutstanding
    cases s.walker.st
    case rdWait => exact .inr ⟨false, s.walker.nodeQ, idxQ s.walker, 0, by simp, rfl⟩
    case zrWait => exact .inr ⟨true, s.walker.newQ, s.walker.ziQ.extractLsb' 0 9, 0, by simp, rfl⟩
    case inWait => exact .inr ⟨true, s.walker.nodeQ, idxQ s.walker, branchEntry s.walker.newQ, by simp, rfl⟩
    all_goals exact .inl rfl
  rcases hp with h | ⟨we, node, idx, v, hv, h⟩
  · exact .inl (by simp only [settlePending, h])
  · by_cases hr : s.pins.memRspValid = true
    · cases we
      · exact .inl (by simp [settlePending, h, hr])
      · exact .inr (.inl ⟨node, idx, v, by simp [settlePending, h, hr]⟩)
    · exact .inr (.inr ⟨we, node, idx, v, hv, by simp [settlePending, h, hr]⟩)

/-- No FSM transition is a protocol fault. -/
theorem fsmEdge_ne_protocol (s : State) : fsmEdge s ≠ .fault .protocol := by
  unfold fsmEdge
  split <;> simp only [edgeIdle, edgeCheck, edgeRdReq, edgeOffer, edgeRdWait, edgeEntry, edgeAlWait, edgeZrWait, edgeInWait, edgeRsp,
    edgeDescend] <;> repeat' split
  all_goals simp

/-- Without a memory response no answer can come to an unadmitted request. -/
theorem answersUnadmitted_of_silent {p : Pins} {s : State} (h : p.memRspValid = false) : answersUnadmitted p s = false := by
  simp [answersUnadmitted, h]

/-- With nothing outstanding a memory response breaks the protocol, so an edge that keeps it has none. -/
theorem memRsp_of_kept {p : Pins} {s : State} (hb : protocolBroken p s = false) (ho : memOutstanding s.walker = false) :
    p.memRspValid = false := by
  simp_all [protocolBroken, portMisused]

/-! ### The transitions, case by case -/

section
variable {s : State}

theorem edgeIdle_request (h : s.pins.reqValid = true) :
    edgeIdle s =
      .next (clearTxns (setWalker (acceptRequest s.pins.reqVa s.pins.reqRootPpn s.pins.reqCreate s.walker) s)) :=
  if_pos h

theorem edgeCheck_canonical (h : canonical s.walker.vaQ = true) :
    edgeCheck s = .next (setWalker (goto .rdReq s.walker) s) := if_pos h

theorem edgeCheck_noncanonical (h : canonical s.walker.vaQ = false) :
    edgeCheck s = .next (setWalker (finish .invalidAddress 3 0 0 s.walker) s) := if_neg (by simp [h])

/-- The value a word has now is an answer the memory may give. -/
theorem readHeld_now : readHeld (memWord s.mem (slotAddr s.walker).toNat) s = true := by simp [readHeld]

/-- With nothing noted there is no other. -/
theorem readHeld_of_quiet {r : Word} (h : s.readSeen = []) :
    readHeld r s = true ↔ r = memWord s.mem (slotAddr s.walker).toNat := by simp [readHeld, h]

/-- The answer to a read, of a value the word has held. -/
theorem edgeRdWait_answer (hv : s.pins.memRspValid = true) (hh : readHeld s.pins.memRspRdata s = true) :
    edgeRdWait s = edgeEntry s.pins.memRspRdata
      (setWalker (latchEntry s.pins.memRspRdata s.walker) (record (.read (slotAddr s.walker) s.pins.memRspRdata) s)) := by
  simp [edgeRdWait, hv, hh]

/-- Any other answer is no memory's. -/
theorem edgeRdWait_notHeld (hv : s.pins.memRspValid = true) (hh : readHeld s.pins.memRspRdata s = false) :
    edgeRdWait s = .fault .readNotHeld := by
  simp [edgeRdWait, hv, hh]

theorem edgeEntry_branch {r : Word} (h : pteIsBranch r = true) : edgeEntry r s = edgeDescend (ptePpn r) s := if_pos h

theorem edgeEntry_create {r : Word} (h : pteIsEmpty r = true) (hc : s.walker.createQ = true) :
    edgeEntry r s = .next (setWalker (goto .alReq s.walker) s) := by
  rcases kind_cases r with h' | h' | h' <;> simp_all [edgeEntry]

theorem edgeEntry_notMapped {r : Word} (h : pteIsEmpty r = true) (hc : s.walker.createQ = false) :
    edgeEntry r s = .next (setWalker (finish .notMapped s.walker.lvlQ s.walker.nodeQ (idxQ s.walker) s.walker) s) := by
  rcases kind_cases r with h' | h' | h' <;> simp_all [edgeEntry]

theorem edgeEntry_leaf {r : Word} (h : pteIsLeaf r = true) :
    edgeEntry r s =
      .next (setWalker (finish .blockedBySuperpage s.walker.lvlQ s.walker.nodeQ (idxQ s.walker) s.walker) s) := by
  rcases kind_cases r with h' | h' | h' <;> simp_all [edgeEntry]

/-- Down one level, from level 2. -/
theorem edgeDescend_two (h : s.walker.lvlQ = 2) (p : Ppn) :
    edgeDescend p s = .next (setWalker (goto .rdReq (enterNode p 1 s.walker)) s) := by
  simp [edgeDescend, h]

/-- Down one level, from level 1: the walk ends in `OK`. -/
theorem edgeDescend_one (h : s.walker.lvlQ = 1) (p : Ppn) :
    edgeDescend p s = .next (setWalker (finish .ok 0 p (vpn s.walker.vaQ 0) (enterNode p 0 s.walker)) s) := by
  simp [edgeDescend, h]

end

/-! ### Edges in the environment that stalls nothing -/

/-- The levels of that environment break no protocol and answer nothing. -/
theorem ownEdge_ready (s : State) : ownEdge readyPins s = fsmEdge (setPins readyPins false s) := by
  simp [ownEdge, portMisused, requestChanged, answersUnadmitted, requestHeld, readyPins, Pins.quiet]

/-- The memory's answer comes to the request outstanding. -/
theorem memAnswer_eq {s : State} (ho : memOutstanding s.walker = true) :
    memAnswer s = if admits s.platform (requestAddr s.walker) then
        fsmEdge (setPins { readyPins with
          memRspValid := true, memRspRdata := memWord s.mem (requestAddr s.walker).toNat } false s)
      else .fault .memNeverAnswers := by
  unfold memAnswer
  split
  · rename_i h
    simp [ownEdge, portMisused, requestChanged, answersUnadmitted, requestHeld, readyPins, Pins.quiet, ho, h]
  · rfl

/-- The allocator's answer comes to the request outstanding. -/
theorem ownEdge_answer {s : State} (hs : s.walker.st = .alWait) (a : AllocAnswer) :
    ownEdge (answerPins a) s = fsmEdge (setPins (answerPins a) false s) := by
  cases a <;> simp [ownEdge, portMisused, requestChanged, answersUnadmitted, requestHeld, answerPins, readyPins,
    Pins.quiet, hs]

/-- The levels before an edge of that environment do not matter. -/
theorem easyEdge_setPins (p : Pins) (b : Bool) (s : State) : easyEdge (setPins p b s) = easyEdge s := by
  have hm : ∀ s : State, memOutstanding s.walker = true → memAnswer (setPins p b s) = memAnswer s := by
    intro s h; rw [memAnswer_eq h, memAnswer_eq (by simpa using h)]; rfl
  unfold easyEdge
  simp only [setPins_walker]
  cases h : s.walker.st <;> simp only
  all_goals try (rw [ownEdge_ready, ownEdge_ready]; rfl)
  · exact hm s (by simp [memOutstanding, h])
  · unfold allocAnswerEdge nextAnswer
    simp only [setPins_allocScript, setPins_allocDraws]
    cases s.allocScript with
    | none => simp only; rw [ownEdge_answer (by simpa using h), ownEdge_answer (by simpa using h)]; rfl
    | some l =>
      cases l with
      | nil => rfl
      | cons a l => simp only; rw [ownEdge_answer (by simpa using h), ownEdge_answer (by simpa using h)]; rfl
  · exact hm s (by simp [memOutstanding, h])
  · exact hm s (by simp [memOutstanding, h])

/-- One edge towards `IDLE`. -/
theorem untilIdle_succ {s : State} (h : s.walker.st ≠ .idle) (n : Nat) :
    untilIdle (n + 1) s = andThen (easyEdge s) (untilIdle n) := by
  rw [untilIdle, if_neg h]

theorem untilIdle_of_idle {s : State} (h : s.walker.st = .idle) (n : Nat) : untilIdle n s = .next s := by
  cases n <;> rw [untilIdle, if_pos h]

/-- A walk that has ended within `n` edges has ended within more. -/
theorem untilIdle_mono {n : Nat} {s t : State} (h : untilIdle n s = .next t) (k : Nat) : untilIdle (n + k) s = .next t := by
  induction n generalizing s with
  | zero =>
    by_cases hi : s.walker.st = .idle
    · rw [untilIdle_of_idle hi] at h ⊢; exact h
    · rw [untilIdle, if_neg hi] at h; exact nomatch h
  | succ n ih =>
    by_cases hi : s.walker.st = .idle
    · rw [untilIdle_of_idle hi] at h ⊢; exact h
    · rw [untilIdle_succ hi] at h
      obtain ⟨u, h1, h2⟩ := andThen_eq_next h
      rw [show n + 1 + k = n + k + 1 by omega, untilIdle_succ hi, h1, andThen_next]
      exact ih h2

/-- Waiting ends in `IDLE`. -/
theorem untilIdle_idle {n : Nat} {s t : State} (h : untilIdle n s = .next t) : t.walker.st = .idle := by
  induction n generalizing s with
  | zero =>
    by_cases hi : s.walker.st = .idle
    · rw [untilIdle_of_idle hi] at h; injection h with h; rw [← h]; exact hi
    · rw [untilIdle, if_neg hi] at h; exact nomatch h
  | succ n ih =>
    by_cases hi : s.walker.st = .idle
    · rw [untilIdle_of_idle hi] at h; injection h with h; rw [← h]; exact hi
    · rw [untilIdle_succ hi] at h
      obtain ⟨u, -, h2⟩ := andThen_eq_next h
      exact ih h2

/-- What the wait for `IDLE` leaves, the levels on the walker's inputs aside. -/
def runOut (n : Nat) (s : State) : Out := releasePins (untilIdle n s)

theorem runOut_setPins (n : Nat) (p : Pins) (b : Bool) (s : State) : runOut n (setPins p b s) = runOut n s := by
  unfold runOut
  by_cases hi : s.walker.st = .idle
  · rw [untilIdle_of_idle hi, untilIdle_of_idle (by simpa using hi)]; rfl
  · cases n with
    | zero => rw [untilIdle, untilIdle, if_neg hi, if_neg (by simpa using hi)]
    | succ n => rw [untilIdle_succ hi, untilIdle_succ (by simpa using hi), easyEdge_setPins]

/-- One edge that goes on, its levels aside. -/
theorem runOut_succ {s t : State} {p : Pins} {b : Bool} (hi : s.walker.st ≠ .idle) (h : easyEdge s = .next (setPins p b t))
    (n : Nat) : runOut (n + 1) s = runOut n t := by
  rw [runOut, untilIdle_succ hi, h, andThen_next, ← runOut, runOut_setPins]

/-- One edge that stops. -/
theorem runOut_fault {s : State} {f : Fault} (hi : s.walker.st ≠ .idle) (h : easyEdge s = .fault f) (n : Nat) :
    runOut (n + 1) s = .fault f := by
  rw [runOut, untilIdle_succ hi, h]; rfl

section
variable {s : State}

theorem runOut_check (h : s.walker.st = .check) (hc : canonical s.walker.vaQ = true) (n : Nat) :
    runOut (n + 1) s = runOut n (setWalker (goto .rdReq s.walker) s) := by
  refine runOut_succ (p := readyPins) (b := false) (by simp [h]) ?_ n
  simp only [easyEdge, h, ownEdge_ready, fsmEdge, edgeCheck, setPins_walker, hc]; rfl

theorem runOut_check_not (h : s.walker.st = .check) (hc : canonical s.walker.vaQ = false) (n : Nat) :
    runOut (n + 1) s = runOut n (setWalker (finish .invalidAddress 3 0 0 s.walker) s) := by
  refine runOut_succ (p := readyPins) (b := false) (by simp [h]) ?_ n
  simp only [easyEdge, h, ownEdge_ready, fsmEdge, edgeCheck, setPins_walker, hc]; rfl

theorem runOut_rdReq (h : s.walker.st = .rdReq) (n : Nat) :
    runOut (n + 1) s = runOut n (openRead (setWalker (goto .rdWait s.walker) s)) := by
  refine runOut_succ (p := readyPins) (b := false) (by simp [h]) ?_ n
  simp only [easyEdge, h, ownEdge_ready, fsmEdge, setPins_walker]; rfl

theorem runOut_alReq (h : s.walker.st = .alReq) (n : Nat) :
    runOut (n + 1) s = runOut n (setWalker (goto .alWait s.walker) s) := by
  refine runOut_succ (p := readyPins) (b := false) (by simp [h]) ?_ n
  simp only [easyEdge, h, ownEdge_ready, fsmEdge, setPins_walker]; rfl

theorem runOut_zrReq (h : s.walker.st = .zrReq) (n : Nat) :
    runOut (n + 1) s = runOut n (setWalker (goto .zrWait s.walker) s) := by
  refine runOut_succ (p := readyPins) (b := false) (by simp [h]) ?_ n
  simp only [easyEdge, h, ownEdge_ready, fsmEdge, setPins_walker]; rfl

theorem runOut_inReq (h : s.walker.st = .inReq) (n : Nat) :
    runOut (n + 1) s = runOut n (setWalker (goto .inWait s.walker) s) := by
  refine runOut_succ (p := readyPins) (b := false) (by simp [h]) ?_ n
  simp only [easyEdge, h, ownEdge_ready, fsmEdge, setPins_walker]; rfl

theorem runOut_rsp (h : s.walker.st = .rsp) (n : Nat) : runOut (n + 1) s = runOut n (takeResponse s) := by
  refine runOut_succ (p := readyPins) (b := false) (by simp [h]) ?_ n
  simp only [easyEdge, h, ownEdge_ready, fsmEdge, setPins_walker]; rfl

theorem runOut_idle (h : s.walker.st = .idle) (n : Nat) : runOut n s = releasePins (.next s) := by
  rw [runOut, untilIdle_of_idle h]

/-- A memory wait whose request the memory does not admit (20_memory.md R57). -/
theorem runOut_unserved (h : memOutstanding s.walker = true) (ha : admits s.platform (requestAddr s.walker) = false)
    (n : Nat) : runOut (n + 1) s = .fault .memNeverAnswers := by
  have he : easyEdge s = memAnswer s := by
    unfold easyEdge
    cases hs : s.walker.st <;> simp [memOutstanding, hs] at h ⊢
  refine runOut_fault ?_ (by rw [he, memAnswer_eq h, ha]; rfl) n
  intro hs; simp [memOutstanding, hs] at h

theorem runOut_zrWait (h : s.walker.st = .zrWait) (ha : admits s.platform (zeroAddr s.walker) = true) (n : Nat) :
    runOut (n + 1) s = runOut n (setWalker (nextZero s.walker) (performWrite (zeroAddr s.walker) 0 s)) := by
  refine runOut_succ (by simp [h]) ?_ n (b := false)
    (p := { readyPins with memRspValid := true, memRspRdata := memWord s.mem (requestAddr s.walker).toNat })
  have hq : requestAddr s.walker = zeroAddr s.walker := by rw [requestAddr, h]
  simp only [easyEdge, h]
  rw [memAnswer_eq (by simp [memOutstanding, h]), hq, if_pos ha]
  simp only [fsmEdge, setPins_walker, h]; rfl

/-- The counter before its last count. -/
theorem nextZero_of_lt {w : Walker} (h : w.ziQ.toNat < 511) :
    nextZero w = goto .zrReq { w with ziQ := w.ziQ + 1 } ∧ (w.ziQ + 1).toNat = w.ziQ.toNat + 1 := by
  have he : (w.ziQ + 1).toNat = w.ziQ.toNat + 1 := by rw [BitVec.toNat_add]; simp; omega
  refine ⟨?_, he⟩
  rw [nextZero, if_neg]
  intro h512
  have : (w.ziQ + 1).toNat = 512 := congrArg BitVec.toNat h512
  omega

/-- The 512th zero write leads to the install (41_walker.md R146). -/
theorem nextZero_of_last {w : Walker} (h : w.ziQ.toNat = 511) : nextZero w = goto .inReq { w with ziQ := 512 } := by
  have he : w.ziQ + 1 = 512 := by apply BitVec.eq_of_toNat_eq; rw [BitVec.toNat_add, h]; rfl
  rw [nextZero, if_pos he, he]

/-- The answer of the memory to a read, at the entry visited. -/
theorem easyEdge_rdWait (h : s.walker.st = .rdWait) (ha : admits s.platform (slotAddr s.walker) = true) :
    ∃ p, easyEdge s = edgeEntry (memWord s.mem (slotAddr s.walker).toNat)
      (setPins p false (setWalker (latchEntry (memWord s.mem (slotAddr s.walker).toNat) s.walker)
        (record (.read (slotAddr s.walker) (memWord s.mem (slotAddr s.walker).toNat)) s))) := by
  refine ⟨{ readyPins with memRspValid := true, memRspRdata := memWord s.mem (slotAddr s.walker).toNat }, ?_⟩
  have hq : requestAddr s.walker = slotAddr s.walker := by rw [requestAddr, h]
  simp only [easyEdge, h]
  rw [memAnswer_eq (by simp [memOutstanding, h]), hq, if_pos ha]
  simp only [fsmEdge, setPins_walker, h]
  exact edgeRdWait_answer (s := setPins _ false s) rfl readHeld_now

/-- The answer of the memory to an install. -/
theorem easyEdge_inWait (h : s.walker.st = .inWait) (ha : admits s.platform (slotAddr s.walker) = true) :
    ∃ p, easyEdge s = edgeDescend s.walker.newQ
      (setPins p false (performWrite (slotAddr s.walker) (branchEntry s.walker.newQ) s)) := by
  refine ⟨{ readyPins with memRspValid := true, memRspRdata := memWord s.mem (slotAddr s.walker).toNat }, ?_⟩
  have hq : requestAddr s.walker = slotAddr s.walker := by rw [requestAddr, h]
  simp only [easyEdge, h]
  rw [memAnswer_eq (by simp [memOutstanding, h]), hq, if_pos ha]
  simp only [fsmEdge, setPins_walker, h]; rfl

/-- The allocator's `Ok`. -/
theorem easyEdge_alWait_ok (h : s.walker.st = .alWait) {new : Ppn} {u : State} (ha : nextAnswer s = some (.ok new, u)) :
    easyEdge s = .next (setPins (answerPins (.ok new)) false
      (setWalker (goto .zrReq (latchFrame new s.walker)) (record (.alloc (.ok new)) u))) := by
  have hu : u.walker = s.walker := by rw [nextAnswer_only ha]
  simp only [easyEdge, h, allocAnswerEdge, ha]
  rw [ownEdge_answer (by rw [hu]; exact h)]
  simp only [fsmEdge, setPins_walker, hu, h]; rw [← hu]; rfl

/-- The allocator's `OutOfMemory`. -/
theorem easyEdge_alWait_refused (h : s.walker.st = .alWait) {u : State} (ha : nextAnswer s = some (.outOfMemory, u)) :
    easyEdge s = .next (setPins (answerPins .outOfMemory) false
      (setWalker (finish .outOfMemory s.walker.lvlQ s.walker.nodeQ (idxQ s.walker) s.walker)
        (record (.alloc .outOfMemory) u))) := by
  have hu : u.walker = s.walker := by rw [nextAnswer_only ha]
  simp only [easyEdge, h, allocAnswerEdge, ha]
  rw [ownEdge_answer (by rw [hu]; exact h)]
  simp only [fsmEdge, setPins_walker, hu, h]; rw [← hu]; rfl

/-- A scripted allocator whose script has run out. -/
theorem easyEdge_alWait_none (h : s.walker.st = .alWait) (ha : nextAnswer s = none) :
    easyEdge s = .fault .allocNeverAnswers := by
  simp only [easyEdge, h, allocAnswerEdge, ha]

end

end Sys2Proof.Machine
end

