-- ==== Sys2Proof/Laws/PerInstr.lean ====
section
/-! SUPPORT. The family `OpidField`: bits 3:0 of an operation's word are its operation id (30_encoding.md R94), one lemma
per constructor. -/

namespace Sys2Proof.Laws.OpidField

/-- The OPID field of the word is the operation's id. -/
def Statement (i : Instr) : Prop := (encode i).toNat % 16 = i.opid.toNat

theorem encode (ppn : Word) (flags : Flags) : Statement (.encode ppn flags) := by
  rw [Statement, encode_encode_toNat, Instr.opid]; simp; omega

theorem decode (raw : Word) : Statement (.decode raw) := by
  rw [Statement, Sys2Proof.encode, packWord_toNat, Instr.opid]; simp

theorem isEmpty (raw : Word) : Statement (.isEmpty raw) := by
  rw [Statement, Sys2Proof.encode, packWord_toNat, Instr.opid]; simp

theorem isBranch (raw : Word) : Statement (.isBranch raw) := by
  rw [Statement, Sys2Proof.encode, packWord_toNat, Instr.opid]; simp

theorem isLeaf (raw : Word) : Statement (.isLeaf raw) := by
  rw [Statement, Sys2Proof.encode, packWord_toNat, Instr.opid]; simp

theorem paToPpn (pa : Word) : Statement (.paToPpn pa) := by
  rw [Statement, Sys2Proof.encode, packWord_toNat, Instr.opid]; simp

theorem ppnToPa (ppn : Ppn) (off : Off) : Statement (.ppnToPa ppn off) := by
  rw [Statement, encode_ppnToPa_toNat, Instr.opid]; simp; omega

theorem vaSplit (va : Word) : Statement (.vaSplit va) := by
  rw [Statement, Sys2Proof.encode, packWord_toNat, Instr.opid]; simp

theorem walkNc (va : Word) (root : Ppn) : Statement (.walkNc va root) := by
  rw [Statement, Sys2Proof.encode, packWalk_toNat, Instr.opid]; simp; omega

theorem walkC (va : Word) (root : Ppn) : Statement (.walkC va root) := by
  rw [Statement, Sys2Proof.encode, packWalk_toNat, Instr.opid]; simp; omega

end Sys2Proof.Laws.OpidField
end

