-- ==== Sys2Proof/Tests/Slice0.lean ====
section
/-! SUPPORT. Tests. Expected values are those of spec/95_test_vectors.md (T1 to T48, W1 to W16, P1 to P4) or of a rule's
own example; operation words are written out by hand. The last section gives, for each statement with hypotheses, a
concrete state and operands that meet them. -/

namespace Sys2Proof.Tests

open Sys2Proof.Machine

/-! ### Helpers -/

/-- A state right after reset with these words in memory and this allocator script. -/
def machine (words : List (Nat × Word)) (script : Option (List AllocAnswer)) : State :=
  { State.reset with mem := words.foldl (fun m w => memSetWord m w.1 w.2) [], allocScript := script }

/-- The state after a step that goes on. -/
def after : Out → Option State
  | .next s => some s
  | .fault _ => none
  | .refused _ => none

/-- What the host read in a step that goes on. -/
def resultOf (o : Out) : Option OpResult := (after o).map (·.result)

/-- The transactions of a step that goes on, in the order made. -/
def txnsOf (o : Out) : List Txn :=
  match after o with
  | some s => s.txns.reverse
  | none => []

/-- The word at an address after a step that goes on. -/
def wordAfter (o : Out) (a : Nat) : Option Word := (after o).map fun s => memWord s.mem a

/-- How a step stopped. -/
def faultOf : Out → Option Fault
  | .next _ => none
  | .fault f => some f
  | .refused _ => none

/-- A walk response as 95_test_vectors.md writes it. -/
def response (status : StatusCode) (level : Lvl) (node : Ppn) (idx : Idx) (slot : Pa) : Option OpResult :=
  some (.walk ⟨status, level, node, idx, slot⟩)

/-- A state whose walker is in `st`, at level 2 of a walk of 0x80000000 from root 0x100, creating frame 0x101. -/
def walking (st : Fsm) : State :=
  { State.reset with walker := { walkerReset with
      st := st, vaQ := 0x80000000, createQ := true, nodeQ := 0x100, lvlQ := 2, newQ := 0x101 } }

/-! ### Well-formedness -/

theorem test_wf_opword : OpWord.wf 0x0000000010000000000800000009 = true := by decide

theorem test_wf_opword_reserved_opid : OpWord.wf 0xA = false := by decide

theorem test_wf_opword_bits_above_operand : OpWord.wf (0x1 + 0x100000000000000000) = false := by decide

theorem test_wf_opid_not_assigned : opidAssigned 0xB = false := by decide

theorem test_wf_access_past_end : HostAction.wf (.hostRead 0xFFFFFFFFFFFFF9) = false := by decide

theorem test_wf_access_last_word : HostAction.wf (.hostWrite 0xFFFFFFFFFFFFF8 1) = true := by decide

theorem test_wf_action_reserved_word : HostAction.wf (.op 0xF) = false := by decide

theorem test_wf_empty_range : AddrRange.wf ⟨2, 1⟩ = false := by decide

theorem test_wf_every_operation_of_out_of_range_ppn : Instr.wf (.encode 0xFFFFFFFFFFFFFFFF 0) = true := by decide

/-! ### Decoding: each word from the OPID in the low hex digit and the operands above it (R94, R95) -/

theorem test_decode_encode : decode 0x0000000000700000000000100000 = .ok (.encode 0x10000 0x007) := by decide

theorem test_decode_decode : decode 0x40000071 = .ok (.decode 0x4000007) := by decide

theorem test_decode_isEmpty : decode 0xE2 = .ok (.isEmpty 0xE) := by decide

theorem test_decode_isBranch : decode 0x404013 = .ok (.isBranch 0x40401) := by decide

theorem test_decode_isLeaf : decode 0xFFFFFFFFFFFFFFFF4 = .ok (.isLeaf 0xFFFFFFFFFFFFFFFF) := by decide

theorem test_decode_paToPpn : decode 0x100001235 = .ok (.paToPpn 0x10000123) := by decide

theorem test_decode_ppnToPa : decode 0x123000000100006 = .ok (.ppnToPa 0x10000 0x123) := by decide

theorem test_decode_vaSplit : decode 0xFFFFFFC0000000007 = .ok (.vaSplit 0xFFFFFFC000000000) := by decide

theorem test_decode_walkNc : decode 0x0000000010000000000800001238 = .ok (.walkNc 0x80000123 0x100) := by decide

theorem test_decode_walkC : decode 0xFFFFFFFFFFF00000000800000009 = .ok (.walkC 0x80000000 0xFFFFFFFFFFF) := by decide

theorem test_decode_reserved : decode 0xA = .error (.reservedOpid 0xA) ∧ decode 0xF = .error (.reservedOpid 0xF) := by
  decide

theorem test_table_word_runs_first :
    resultOf (step (State.reset.withFetchWord 8 0x8)) = response 2 2 0x0 0x0 0x0 := by decide

theorem test_reserved_word_is_refused :
    (match step (State.reset.withFetchWord 8 0xC) with
      | .refused (.reservedOpid o) => decide (o = 0xC)
      | .refused (.notModelled _) => false
      | .next _ => false
      | .fault _ => false) = true := by decide

/-! ### The codec -/

theorem test_encode_T4_T6 :
    resultOf (exec (.encode 0xFFFFFFFFFFF 0x3FF) State.reset) = some (.encode 0x003FFFFFFFFFFFFF false) ∧
    resultOf (exec (.encode 0x1 0x101) State.reset) = some (.encode 0x501 false) := by decide

theorem test_encode_T7 :
    faultOf (exec (.encode 0x100000000000 0x001) State.reset) = some .encodePpnRange ∧
    (let s := { State.reset with
      platform := { debugAssert := true, holes := [] }, codec := { codecReset with encPpnI := 0x100000000000, encFlagsI := 1 } }
    encRawO s = 0x1 ∧ encErrO s = true) := by decide

theorem test_decode_T11_T14 :
    resultOf (exec (.decode 0xFFFFFFFFFFFFFFFF) State.reset) = some (.decode 0xFFFFFFFFFFF 0x3FF) ∧
    resultOf (exec (.decode 0xFFC00000000404F1) State.reset) = some (.decode 0x101 0x0F1) := by decide

theorem test_isEmpty_T16_T18 :
    resultOf (exec (.isEmpty 0xE) State.reset) = some (.isEmpty true) ∧
    resultOf (exec (.isEmpty 0x1) State.reset) = some (.isEmpty false) := by decide

theorem test_isBranch_T22_T24 :
    resultOf (exec (.isBranch 0xFFC0000000000001) State.reset) = some (.isBranch true) ∧
    resultOf (exec (.isBranch 0x5) State.reset) = some (.isBranch false) := by decide

theorem test_isLeaf_T25_T20 :
    resultOf (exec (.isLeaf 0x9) State.reset) = some (.isLeaf true) ∧
    resultOf (exec (.isLeaf 0xF1) State.reset) = some (.isLeaf false) := by decide

theorem test_kindAt_T18 : kindAt 0x1 2 = .branch ∧ kindAt 0x1 0 = .leaf := by decide

theorem test_paToPpn_T30_T31 :
    resultOf (exec (.paToPpn 0x10000123) State.reset) = some (.paToPpn 0x10000 0x123 false true) ∧
    resultOf (exec (.paToPpn 0x00FFFFFFFFFFFFFF) State.reset) = some (.paToPpn 0xFFFFFFFFFFF 0xFFF false true) := by decide

theorem test_paToPpn_T32 : faultOf (exec (.paToPpn 0x0100000000000000) State.reset) = some .paRange := by decide

theorem test_ppnToPa_T35_T36 :
    resultOf (exec (.ppnToPa 0x10000 0x123) State.reset) = some (.ppnToPa 0x10000123) ∧
    resultOf (exec (.ppnToPa 0xFFFFFFFFFFF 0xFFF) State.reset) = some (.ppnToPa 0xFFFFFFFFFFFFFF) := by decide

theorem test_vaSplit_T41_T42 :
    resultOf (exec (.vaSplit 0x3FFFFFFFFF) State.reset) = some (.vaSplit true 0x0FF 0x1FF 0x1FF 0xFFF) ∧
    resultOf (exec (.vaSplit 0x4000000000) State.reset) = some (.vaSplit false 0x100 0x000 0x000 0x000) := by decide

theorem test_vaSplit_T44_T47 :
    resultOf (exec (.vaSplit 0x8000000000) State.reset) = some (.vaSplit false 0x000 0x000 0x000 0x000) ∧
    resultOf (exec (.vaSplit 0xFFFFFFFF80000000) State.reset) = some (.vaSplit true 0x1FE 0x000 0x000 0x000) := by decide

/-! ### The walks -/

theorem test_walkNc_W3 :
    (let o := exec (.walkNc 0x80000000 0x100) (machine [(0x100010, 0x40401)] none)
    resultOf o = response 2 1 0x101 0x0 0x101000 ∧ txnsOf o = [.read 0x100010 0x40401, .read 0x101000 0]) := by
  decide +kernel

theorem test_walkNc_W11 :
    resultOf (exec (.walkNc 0x80000000 0x100) (machine [(0x100010, 0xFFC00000000404F1), (0x101000, 0x40801)] none)) =
      response 0 0 0x102 0x0 0x102000 := by decide +kernel

theorem test_walkC_W5 :
    (let o := exec (.walkC 0x80000000 0x100) (machine [(0x102008, 0xFFFF)] (some [.ok 0x101, .ok 0x102]))
    resultOf o = response 0 0 0x102 0x0 0x102000 ∧ wordAfter o 0x100010 = some 0x40401 ∧
      wordAfter o 0x101000 = some 0x40801 ∧ wordAfter o 0x102008 = some 0 ∧ (txnsOf o).countP isWriteTxn = 1026) := by
  decide +kernel

theorem test_walkC_W10 :
    (let o := exec (.walkC 0x80000000 0x100) (machine [] (some [.ok 0x101, .outOfMemory]))
    resultOf o = response 4 1 0x101 0x0 0x101000 ∧ wordAfter o 0x100010 = some 0x40401) := by decide +kernel

/-! ### The clocked walker -/

/-- 95_test_vectors.md P4 line 3 on the FSM: `IDLE`, `CHECK`, `RSP`, `IDLE` (R140, R141, R149). -/
theorem test_fsm_rejects_noncanonical :
    resultOf (andThen (clockEdge (requestPins 0x4000000000 0x100 true) State.reset) awaitIdle) = response 1 3 0 0 0 := by
  decide +kernel

/-- W7 on the FSM. -/
theorem test_fsm_W7 :
    resultOf (andThen (clockEdge (requestPins 0x80000000 0x100 true) (machine [(0x100010, 0xF)] none)) awaitIdle) =
      response 3 2 0x100 0x2 0x100010 := by decide +kernel

/-- R200: a reset edge from `ZR_WAIT` leaves the write unanswered for the memory to settle (R201). -/
theorem test_reset_edge_leaves_a_late_write :
    (after (clockEdge { Pins.quiet with rst := true } (walking .zrWait))).map (fun s => (s.walker.st, s.lateReqs)) =
      some (.idle, [⟨true, 0x101000, 0⟩]) := by decide

/-- R201: a response that comes to a later walk while the write of before the reset is unanswered is a protocol fault; once
the memory has answered that write away from the walker, the response is the walk's own. -/
theorem test_late_response_in_a_later_walk :
    (let s := { walking .rdWait with lateReqs := [⟨true, 0x101000, 0⟩] }
    let p := { Pins.quiet with memRspValid := true }
    faultOf (clockEdge p s) = some .protocol ∧
    faultOf (andThen (perform (.lateAnswer false) s) (clockEdge p)) = none) := by decide

/-- 20_memory.md R57, R62: the memory does not answer a read with another value than the word's. -/
theorem test_read_answer_is_the_word :
    (let s := { walking .rdWait with mem := memSetWord [] 0x100010 0x40401 }
    faultOf (clockEdge { Pins.quiet with memRspValid := true, memRspRdata := 0x40401 } s) = none ∧
    faultOf (clockEdge { Pins.quiet with memRspValid := true, memRspRdata := 0x40801 } s) = some .readNotHeld) := by decide

/-- R189. -/
theorem test_answer_in_idle_is_a_protocol_fault :
    faultOf (clockEdge { Pins.quiet with memRspValid := true } State.reset) = some .protocol := by decide

/-! ### The host's actions -/

/-- 20_memory.md R52. -/
theorem test_host_write_is_little_endian :
    (after (perform (.hostWrite 0x100010 0x0807060504030201) State.reset)).map (fun s => memByte s.mem 0x100011) =
      some 0x02 := by decide

/-- R96 with P1 lines 3 to 8: `LEAF.SET` leaves the leaf in the slot. -/
theorem test_leaf_set :
    wordAfter (perform (.leafSet 0x80000000 0x100 0x10000000 0x007) (machine [] (some [.ok 0x101, .ok 0x102]))) 0x102000 =
      some 0x4000007 := by decide +kernel

/-! ### Witnesses: the hypotheses of each statement can be met -/

/-- `DecodeOfEncodeIsTheOperation`. -/
theorem witness_wf : Instr.wf (.walkC 0xFFFFFFFFFFFFFFFF 0xFFFFFFFFFFF) = true := by decide

/-- `EncodeOfDecodeKeepsOpidAndOperandBits`, with bits above the operand. -/
theorem witness_decodes : decode (0x1 + 0x100000000000000000) = .ok (.decode 0) := by decide

/-- `ReservedOpidsAloneAreRefused`: both clauses at the values where they meet. -/
theorem witness_opids :
    ({ State.reset with host := [.op 0xA] } : State).host = .op 0xA :: [] ∧ 10 ≤ (0xA : OpWord).toNat % 16 ∧
    ({ State.reset with host := [.op 0x9] } : State).host = .op 0x9 :: [] ∧ (0x9 : OpWord).toNat % 16 ≤ 9 := by decide

/-- `StepRunsTheDecodedOperation`: both clauses. -/
theorem witness_step_runs :
    (({ State.reset with host := [.op 0xE2] } : State).host = .op 0xE2 :: [] ∧ decode 0xE2 = .ok (.isEmpty 0xE)) ∧
    decodeTableWord 8 0x9 = some (.walkC 0 0) := by decide

/-- `BlockWaitsForTheHost`. -/
theorem witness_no_action : State.reset.host = [] := by decide

/-- `EncodeBuildsTheEntry`, `CodecRoundTrips`: the last PPN in range and the first out of range. -/
theorem witness_ppn_range : (0xFFFFFFFFFFF : Word).toNat < 2 ^ 44 ∧ 2 ^ 44 ≤ (0x100000000000 : Word).toNat := by decide

/-- `PaToPpnSplitsTheAddress`: the last address in range and the first out of range. -/
theorem witness_pa_range :
    (0x00FFFFFFFFFFFFFF : Word).toNat < 2 ^ 56 ∧ 2 ^ 56 ≤ (0x0100000000000000 : Word).toNat := by decide

/-- `KindAtQualifiesByLevel`: both levels. -/
theorem witness_kind_levels : ((1 : Nat) = 1 ∨ (1 : Nat) = 2) ∧ ((2 : Nat) = 1 ∨ (2 : Nat) = 2) := by decide

/-- `CodecUseNeverDisturbsAWalk`: the last codec OPID, in the middle of a walk. -/
theorem witness_codec_in_walk :
    (Instr.vaSplit 0).opid.toNat ≤ 7 ∧ ∃ t, exec (.vaSplit 0) (walking .zrWait) = .next t := ⟨by decide, _, rfl⟩

/-- `HostWordsAreLittleEndian`: the last word of memory and its last byte. -/
theorem witness_host_word :
    memWf State.reset.mem = true ∧ (0xFFFFFFFFFFFFF8 : Pa).toNat + 8 ≤ 2 ^ 56 ∧
    7 < 8 ∧ (0xFFFFFFFFFFFFFF : Pa).toNat = (0xFFFFFFFFFFFFF8 : Pa).toNat + 7 := by decide

/-- `HostAccessPastTheEndFaults`: the first word that does not fit. -/
theorem witness_host_past_end : 2 ^ 56 < (0xFFFFFFFFFFFFF9 : Pa).toNat + 8 := by decide

/-- `WalkNcFollowsItsPseudocode`, its first two cases: the highest low-half address and the one after it. -/
theorem witness_canonical_boundary :
    State.reset.walker.st = .idle ∧ canonical 0x3FFFFFFFFF = true ∧ canonical 0x4000000000 = false := by decide

/-- `WalkNcFollowsItsPseudocode`, `SuperpageBlocksBothWalks`, level 2 (W2, W6). -/
theorem witness_level_two :
    ((machine [] none).walker.st = .idle ∧ canonical 0x80000000 = true ∧
      entryIs (machine [] none) 0x100 (vpnAt 0x80000000 2) 0 ∧ pteIsEmpty 0 = true) ∧
    ((machine [(0x100010, 0xF)] none).walker.st = .idle ∧
      entryIs (machine [(0x100010, 0xF)] none) 0x100 (vpnAt 0x80000000 2) 0xF ∧ pteIsLeaf 0xF = true) := by
  simp only [entryIs]; decide +kernel

/-- The same at level 1 below a branch (W3, W8, W4); also `WalkCOnAnExistingPath`. -/
theorem witness_level_one :
    ((machine [(0x100010, 0x40401), (0x101000, 0x40801)] none).walker.st = .idle ∧
      entryIs (machine [(0x100010, 0x40401), (0x101000, 0x40801)] none) 0x100 (vpnAt 0x80000000 2) 0x40401 ∧
      pteIsBranch 0x40401 = true ∧
      entryIs (machine [(0x100010, 0x40401), (0x101000, 0x40801)] none) (ptePpn 0x40401) (vpnAt 0x80000000 1) 0x40801 ∧
      pteIsBranch 0x40801 = true) ∧
    ((machine [(0x100010, 0x40401)] none).walker.st = .idle ∧
      entryIs (machine [(0x100010, 0x40401)] none) 0x100 (vpnAt 0x80000000 2) 0x40401 ∧
      entryIs (machine [(0x100010, 0x40401)] none) (ptePpn 0x40401) (vpnAt 0x80000000 1) 0 ∧ pteIsEmpty 0 = true) ∧
    ((machine [(0x100010, 0x40401), (0x101000, 0x5)] none).walker.st = .idle ∧
      entryIs (machine [(0x100010, 0x40401), (0x101000, 0x5)] none) 0x100 (vpnAt 0x80000000 2) 0x40401 ∧
      entryIs (machine [(0x100010, 0x40401), (0x101000, 0x5)] none) (ptePpn 0x40401) (vpnAt 0x80000000 1) 0x5 ∧
      pteIsLeaf 0x5 = true) := by
  simp only [entryIs]; decide +kernel

/-- `WalkNcLeavesMemoryAndAllocator`, `WalkResponsesAreLegal`, `WalkTransactionBounds`. -/
theorem witness_walkNc_answers : State.reset.walker.st = .idle ∧ ∃ t, exec (.walkNc 0x80000000 0x100) State.reset = .next t :=
  ⟨by decide, _, rfl⟩

/-- `WalkTransactionBounds`, its last clause. -/
theorem witness_invalid_answer :
    ∃ t r, exec (.walkC 0x4000000000 0x100) State.reset = .next t ∧ t.result = .walk r ∧
      r.status = statusCode .invalidAddress := ⟨_, _, rfl, rfl, rfl⟩

/-- `SuperpageBlocksBothWalks`, its last clause (W7). -/
theorem witness_superpage_answer :
    ∃ t r, exec (.walkC 0x80000000 0x100) (machine [(0x100010, 0xF)] none) = .next t ∧ t.result = .walk r ∧
      r.status = statusCode .blockedBySuperpage :=
  ⟨_, _, rfl, rfl, rfl⟩

/-- Memory that nothing has written reads as zero words. -/
theorem unwritten (a : Nat) : memWord [] a = 0 := by
  simp only [memWord, memByte, unwrittenByte]; decide

/-- `WalkCCreatesBothNodes`, `LeafSetThenWalkFindsTheLeaf` (W5): an allocator that answers twice, an empty root, memory
that serves every address. -/
theorem witness_create_both :
    nextAnswer (machine [] (some [.ok 0x101, .ok 0x102])) = some (.ok 0x101, machine [] (some [.ok 0x102])) ∧
    nextAnswer (machine [] (some [.ok 0x102])) = some (.ok 0x102, machine [] (some [])) ∧
    (machine [] (some [.ok 0x101, .ok 0x102])).walker.st = .idle ∧
    memWf (machine [] (some [.ok 0x101, .ok 0x102])).mem = true ∧ canonical 0x80000000 = true ∧
    (∀ idx, memWord (machine [] (some [.ok 0x101, .ok 0x102])).mem (entryPa 0x100 idx).toNat = 0) ∧ pteIsEmpty 0 = true ∧
    allAdmitted (machine [] (some [.ok 0x101, .ok 0x102])) ∧ (0x101 : Ppn) ≠ 0x100 ∧ (0x102 : Ppn) ≠ 0x100 ∧
    (0x102 : Ppn) ≠ 0x101 ∧ (0x80000FFF : Word).toNat / 4096 = (0x80000000 : Word).toNat / 4096 ∧
    (0x10000000 : Word).toNat < 2 ^ 56 :=
  ⟨rfl, rfl, by decide, by decide, by decide, fun _ => unwritten _, by decide, fun _ => rfl, by decide, by decide, by decide,
    by decide, by decide⟩

/-- `WalkCCreatesTheLevelOneTarget` (P2 line 6): the entries are those of `witness_level_one`. -/
theorem witness_create_one :
    nextAnswer (machine [(0x100010, 0x40401)] (some [.ok 0x102])) =
      some (.ok 0x102, machine [(0x100010, 0x40401)] (some [])) ∧
    frameAdmitted (machine [(0x100010, 0x40401)] (some [.ok 0x102])).platform 0x102 = true ∧
    memWf (machine [(0x100010, 0x40401)] (some [.ok 0x102])).mem = true := ⟨rfl, by decide +kernel, by decide +kernel⟩

/-- `OutOfMemoryLeavesTheTreeValid` (W9, W10). -/
theorem witness_out_of_memory :
    nextAnswer (machine [] (some [.outOfMemory])) = some (.outOfMemory, machine [] (some [])) ∧
    nextAnswer (machine [(0x100010, 0x40401)] (some [.outOfMemory])) =
      some (.outOfMemory, machine [(0x100010, 0x40401)] (some [])) ∧
    nextAnswer (machine [] (some [.ok 0x101, .outOfMemory])) = some (.ok 0x101, machine [] (some [.outOfMemory])) ∧
    nextAnswer (machine [] (some [.outOfMemory])) = some (.outOfMemory, machine [] (some [])) ∧
    frameAdmitted (machine [] (some [.ok 0x101, .outOfMemory])).platform 0x101 = true ∧
    memWf (machine [] (some [.ok 0x101, .outOfMemory])).mem = true ∧ (0x101 : Ppn) ≠ 0x100 :=
  ⟨rfl, rfl, rfl, rfl, by decide +kernel, by decide, by decide⟩

/-- `WalkCWritesOnlyNewFramesAndEmptySlots`: a create walk that answers and has written. -/
theorem witness_walkC_answers :
    memWf (machine [] (some [.ok 0x101, .ok 0x102])).mem = true ∧
    (after (exec (.walkC 0x80000000 0x100) (machine [] (some [.ok 0x101, .ok 0x102])))).map
      (fun t => decide (memByte t.mem 0x101000 ≠ memByte [] 0x101000)) = some true := ⟨by decide, by decide +kernel⟩

/-- `NonCanonicalAddressIsRejectedFirst`: both ends of the range. -/
theorem witness_noncanonical :
    2 ^ 38 ≤ (0x4000000000 : Word).toNat ∧ (0x4000000000 : Word).toNat < 2 ^ 64 - 2 ^ 38 ∧
    2 ^ 38 ≤ (0xFFFFFFBFFFFFFFFF : Word).toNat ∧ (0xFFFFFFBFFFFFFFFF : Word).toNat < 2 ^ 64 - 2 ^ 38 := by decide

/-- `WalksCompleteOnAdmittedMemory`, and `WaitingRequestIsServedAfterTheWalk` with a walk in progress. -/
theorem witness_completes :
    (Invariant State.reset ∧ allAdmitted State.reset ∧ State.reset.allocScript = none) ∧
    (Invariant (walking .alWait) ∧ allAdmitted (walking .alWait) ∧ (walking .alWait).allocScript = none ∧
      (walking .alWait).walker.st ≠ .idle) :=
  ⟨⟨⟨by decide, by decide, by decide, by decide, by decide⟩, fun _ => rfl, rfl⟩,
    ⟨by decide, by decide, by decide, by decide, by decide⟩, fun _ => rfl, rfl, by decide⟩

/-- `WalksIgnoreThePageOffset`: the first and the last byte of a page. -/
theorem witness_page :
    State.reset.walker.st = .idle ∧ (0x80000000 : Word).toNat / 4096 = (0x80000FFF : Word).toNat / 4096 ∧
    (∃ t, exec (.walkNc 0x80000000 0x100) State.reset = .next t) ∧
    ∃ t, exec (.walkC 0x80000000 0x100) (machine [(0x100010, 0xF)] none) = .next t :=
  ⟨by decide, by decide, ⟨_, rfl⟩, _, rfl⟩

/-- `UnadmittedEntryLeavesTheWalkStuck`: a hole over one entry. -/
theorem witness_hole :
    canonical 0x80000000 = true ∧
    admits { debugAssert := false, holes := [⟨0x100010, 0x100017⟩] } (entryPa 0x100 (vpnAt 0x80000000 2)) = false := by
  decide

/-- `FsmAgreesWithTheWalkOperations`. -/
theorem witness_fsm_agrees :
    State.reset.walker.st = .idle ∧ State.reset.reqWaiting = false ∧ memWf State.reset.mem = true := by decide

/-- `RequestIsLatchedThenChecked`: both clauses. -/
theorem witness_request :
    (State.reset.walker.st = .idle ∧ (requestPins 0 0 true).rst = false ∧
      protocolBroken (requestPins 0 0 true) State.reset = false ∧ (requestPins 0 0 true).reqValid = true) ∧
    ((walking .check).walker.st = .check ∧ protocolBroken Pins.quiet (walking .check) = false) := by decide

/-- `AcceptedRequestsAreAwaited`, and the offers of `ZeroFillCountsToTheInstall` and `InstallWritesTheBranchAndDescends`. -/
theorem witness_accepted :
    protocolBroken readyPins (walking .rdReq) = false ∧ protocolBroken readyPins (walking .alReq) = false ∧
    protocolBroken readyPins (walking .zrReq) = false ∧ protocolBroken readyPins (walking .inReq) = false ∧
    (walking .rdReq).pins.rst = false ∧ readyPins.rst = false ∧ readyPins.memReqReady = true ∧
    readyPins.allocReqReady = true := by decide

/-- `ReadEntryDecidesTheWalk`, `InstallWritesTheBranchAndDescends`, at level 2 and at level 1. -/
theorem witness_memory_answers :
    (let p := { Pins.quiet with memRspValid := true }
    let low := fun st => { walking st with walker := { (walking st).walker with lvlQ := 1 } }
    (p.rst = false ∧ p.memRspValid = true) ∧
    (protocolBroken p (walking .rdWait) = false ∧ protocolBroken p (walking .inWait) = false) ∧
    (protocolBroken p (low .rdWait) = false ∧ protocolBroken p (low .inWait) = false) ∧
    ((walking .rdWait).walker.lvlQ = 2 ∧ (low .rdWait).walker.lvlQ = 1) ∧
    admits (walking .rdWait).platform (entryPa 0x100 (vpn 0x80000000 2)) = true) := by decide

/-- `AllocatorAnswerStartsTheZeroFill`: both answers. -/
theorem witness_allocator_answers :
    protocolBroken (answerPins (.ok 0x101)) (walking .alWait) = false ∧
    protocolBroken (answerPins .outOfMemory) (walking .alWait) = false ∧
    (answerPins .outOfMemory).allocRspValid = true ∧ (answerPins .outOfMemory).rst = false := by decide

/-- `ZeroFillCountsToTheInstall`: the first and the last zero write. -/
theorem witness_zero_write :
    (let p := { Pins.quiet with memRspValid := true }
    let last := { walking .zrWait with walker := { (walking .zrWait).walker with ziQ := 511 } }
    protocolBroken p (walking .zrWait) = false ∧ (walking .zrWait).walker.ziQ.toNat < 512 ∧
    protocolBroken p last = false ∧ last.walker.ziQ.toNat < 512 ∧ last.walker.ziQ.toNat = 511 ∧
    admits last.platform (entryPa 0x101 0x1FF) = true) := by decide

/-- `ResponseIsHeldUntilTaken`: taken and not taken. -/
theorem witness_response :
    protocolBroken readyPins (walking .rsp) = false ∧ readyPins.rspReady = true ∧
    protocolBroken Pins.quiet (walking .rsp) = false ∧ Pins.quiet.rspReady = false := by decide

/-- `StalledEdgesChangeNothing`: quiet levels stall every state it names. -/
theorem witness_stalled :
    (∀ st ∈ [Fsm.idle, .rdReq, .rdWait, .alReq, .alWait, .zrReq, .zrWait, .inReq, .inWait, .rsp],
      protocolBroken Pins.quiet (walking st) = false ∧ (walking st).walker.st = st) ∧
    Pins.quiet = ⟨false, false, 0, 0, false, false, false, false, 0, false, false, false, 0⟩ := by decide

/-- `ProtocolFaultsAreExactlyTheThree`: each violation raises the fault, and a held request kept stable does not. -/
theorem witness_protocol :
    (let busy := { walking .rdReq with pins := requestPins 5 6 true, reqWaiting := true }
    faultOf (clockEdge { Pins.quiet with memRspValid := true } (walking .zrReq)) = some .protocol ∧
    faultOf (clockEdge { Pins.quiet with allocRspValid := true } (walking .alReq)) = some .protocol ∧
    faultOf (clockEdge (requestPins 5 7 true) busy) = some .protocol ∧
    faultOf (clockEdge (requestPins 5 6 true) busy) = none) := by decide

/-- `MemoryRequestsAreOfThreeKinds`: each kind (W5's first three requests). -/
theorem witness_requests :
    (Invariant (walking .rdReq) ∧ memReq (walking .rdReq) = some ⟨false, 0x100010, 0⟩) ∧
    (Invariant (walking .zrReq) ∧ memReq (walking .zrReq) = some ⟨true, 0x101000, 0⟩) ∧
    (let s := { walking .inReq with walker := { (walking .inReq).walker with ziQ := 512 } }
    Invariant s ∧ memReq s = some ⟨true, 0x100010, 0x40401⟩) :=
  ⟨⟨⟨by decide, by decide, by decide, by decide, by decide⟩, by decide⟩,
    ⟨⟨by decide, by decide, by decide, by decide, by decide⟩, by decide⟩,
    ⟨by decide, by decide, by decide, by decide, by decide⟩, by decide⟩

/-- `EdgesWriteOnlyNewFrameOrEmptySlot`: an install that changes a byte, from a state that meets the invariant. -/
theorem witness_edge_writes :
    (let s := { walking .inWait with walker := { (walking .inWait).walker with ziQ := 512 } }
    Invariant s ∧ ∃ t, clockEdge { Pins.quiet with memRspValid := true } s = .next t ∧
      memByte t.mem 0x100010 ≠ memByte s.mem 0x100010) :=
  ⟨⟨by decide, by decide, by decide, by decide, by decide⟩, _, rfl, by decide⟩

/-- `ResetEdgeReachesIdle` and the edge after it. -/
theorem witness_reset_edge :
    (let p := { Pins.quiet with rst := true }
    p.rst = true ∧ protocolBroken p (walking .rdWait) = false ∧ answersUnadmitted p (walking .rdWait) = false ∧
    ∃ t, clockEdge p (walking .rdWait) = .next t ∧ protocolBroken Pins.quiet t = false) :=
  ⟨by decide, by decide, by decide, _, rfl, rfl⟩

/-- `ResetAbandonsTheWalk`: nothing in flight, each kind of write in flight, and a late write to settle. -/
theorem witness_reset_abandons :
    (let p := { Pins.quiet with rst := true }
    (∃ t, clockEdge p (walking .rdReq) = .next t) ∧ (∃ t, clockEdge p (walking .zrWait) = .next t) ∧
    (∃ t, clockEdge p (walking .inWait) = .next t) ∧ p.memRspValid = false ∧
    (let s := { State.reset with lateReqs := [⟨true, 0x101000, 0⟩] }
    s.lateReqs = ⟨true, 0x101000, 0⟩ :: [] ∧ admits s.platform 0x101000 = true)) :=
  ⟨⟨_, rfl⟩, ⟨_, rfl⟩, ⟨_, rfl⟩, by decide, by decide, by decide⟩

/-- `StepKeepsTheInvariant`, `NoStepChangesTheParameters`: a step that goes on from a state that meets the invariant. -/
theorem witness_step :
    (let s := { walking .rdReq with host := [.edge readyPins] }
    Invariant s ∧ ∃ t, step s = .next t ∧ t.walker.st = .rdWait) :=
  ⟨⟨by decide, by decide, by decide, by decide, by decide⟩, _, rfl, rfl⟩

/-- `ResetAbandonsTheWalk`, `ProtocolFaultsAreExactlyTheThree`: a read in flight, a late read to answer, and a late response
in a later walk. -/
theorem witness_late_read :
    (let p := { Pins.quiet with rst := true }
    let s := { walking .rdWait with lateReqs := [⟨false, 0x101000, 0⟩] }
    (∃ t, clockEdge p (walking .rdWait) = .next t) ∧ s.lateReqs = ⟨false, 0x101000, 0⟩ :: [] ∧
    (⟨false, 0x101000, 0⟩ : MemReq) ∈ s.lateReqs ∧ admits s.platform 0x101000 = true ∧
    faultOf (clockEdge { Pins.quiet with memRspValid := true } s) = some .protocol) :=
  ⟨⟨_, rfl⟩, rfl, by decide, by decide, by decide⟩

/-- `LeafSetEndsWhereAPartDoes`: a walk that is not OK (W7), one that is with an address out of range, and one that stops. -/
theorem witness_leafSet_parts :
    (∃ t r, exec (.walkC 0x80000000 0x100) (machine [(0x100010, 0xF)] none) = .next t ∧ t.result = .walk r ∧ r.status ≠ 0) ∧
    (∃ t r, exec (.walkC 0x80000000 0x100) (machine [(0x100010, 0x40401), (0x101000, 0x40801)] none) = .next t ∧
      t.result = .walk r ∧ r.status = 0 ∧ 2 ^ 56 ≤ (0x0100000000000000 : Word).toNat) ∧
    exec (.walkC 0x80000000 0x100) (machine [] (some [])) = .fault .allocNeverAnswers :=
  ⟨⟨_, _, rfl, rfl, by decide⟩, ⟨_, _, rfl, rfl, by decide, by decide⟩, rfl⟩

/-- `ClockedReadsReturnAValueTheWordHeld`: a read that nothing races, and one that a host write races, each way. -/
theorem witness_clocked_reads :
    (let q := fun r : Word => { Pins.quiet with memRspValid := true, memRspRdata := r }
    (∃ t u, clockEdge readyPins (walking .rdReq) = .next t ∧ clockEdge (q 0) t = .next u) ∧
    ((walking .rdWait).readSeen = [] ∧ (walking .rdWait).walker.lvlQ = 2 ∧ (0x100010 : Pa).toNat + 8 ≤ 2 ^ 56) ∧
    ∃ t, perform (.hostWrite 0x100010 0x40401) (walking .rdWait) = .next t ∧ protocolBroken (q 0) t = false ∧
      (∃ u, clockEdge (q 0) t = .next u) ∧ (∃ u, clockEdge (q 0x40401) t = .next u) ∧
      clockEdge (q 1) t = .fault .readNotHeld) :=
  ⟨⟨_, _, rfl, rfl⟩, by decide, _, rfl, rfl, ⟨_, rfl⟩, ⟨_, rfl⟩, rfl⟩

/-- `AllocatorAnswersInOrder`: a script with an answer, and no script. -/
theorem witness_allocator :
    (machine [] (some [.outOfMemory, .ok 1])).allocScript = some (.outOfMemory :: [.ok 1]) ∧
    State.reset.allocScript = none := by decide

end Sys2Proof.Tests
end

section
/-! The outputs of the walker's ports (10_state.md R25 to R28, R33): when each valid and ready output is 1, and the request
on the memory port in each state that offers one. -/

namespace Sys2Proof.Machine

variable {s : State}

theorem reqReady_iff : reqReady s = true ↔ s.walker.st = .idle ∧ s.pins.rst = false := by simp [reqReady]

theorem rspValid_iff : rspValid s = true ↔ s.walker.st = .rsp ∧ s.pins.rst = false := by simp [rspValid]

theorem allocReqValid_iff : allocReqValid s = true ↔ s.walker.st = .alReq ∧ s.pins.rst = false := by
  simp [allocReqValid]

theorem memReqValid_iff : memReqValid s = true ↔
    (s.walker.st = .rdReq ∨ s.walker.st = .zrReq ∨ s.walker.st = .inReq) ∧ s.pins.rst = false := by
  simp [memReqValid, or_assoc]

theorem memReq_of_valid (h : memReqValid s = true) : memReq s = requestOf s.walker := if_pos h

theorem memReq_of_not_valid (h : memReqValid s = false) : memReq s = none := by simp [memReq, h]

/-- R142: the read of the entry visited. -/
theorem requestOf_rdReq {w : Walker} (h : w.st = .rdReq) : requestOf w = some ⟨false, slotAddr w, 0⟩ := by
  simp only [requestOf, h]

/-- R146: a zero write into the new frame. -/
theorem requestOf_zrReq {w : Walker} (h : w.st = .zrReq) : requestOf w = some ⟨true, zeroAddr w, 0⟩ := by
  simp only [requestOf, h]

/-- R147: the install of the new frame in the entry visited. -/
theorem requestOf_inReq {w : Walker} (h : w.st = .inReq) :
    requestOf w = some ⟨true, slotAddr w, branchEntry w.newQ⟩ := by
  simp only [requestOf, h]

/-- `zi_q[8:0]` by truncation. -/
theorem zeroAddr_eq_setWidth (w : Walker) : zeroAddr w = entryPa w.newQ (w.ziQ.setWidth 9) := by
  rw [zeroAddr, BitVec.setWidth_eq_extractLsb' (show 9 ≤ 10 by decide)]

/-- Settles O47: each output is the lemma about it, each request that of its state. -/
theorem handshakeOutputsFollowTheFsm : Obligations.HandshakeOutputsFollowTheFsm := by
  intro s
  refine ⟨reqReady_iff, rspValid_iff, memReqValid_iff, allocReqValid_iff, memReq_of_not_valid, ?read, ?zero, ?install⟩
  case read => exact fun hv hs => (memReq_of_valid hv).trans (requestOf_rdReq hs)
  case zero =>
    intro hv hs
    rw [memReq_of_valid hv, requestOf_zrReq hs, zeroAddr_eq_setWidth]
  case install =>
    exact fun hv hs => ⟨branchEntry s.walker.newQ, branchEntry_toNat _, (memReq_of_valid hv).trans (requestOf_inReq hs)⟩

end Sys2Proof.Machine
end

section
/-! The address of a page-table entry (20_memory.md R53). -/

namespace Sys2Proof.Machine

/-- Settles O19: R53's sum is the law of `entryPa`, and its alignment follows from both terms being multiples of 8. -/
theorem entryAddressIsNodePlusIndex : Obligations.EntryAddressIsNodePlusIndex := fun node idx =>
  ⟨entryPa_toNat node idx, entryPa_aligned node idx⟩

end Sys2Proof.Machine
end

section
/-! The kinds of memory request (30_encoding.md R90): what a request on the port says of the FSM's state, and what the
invariant says of the registers a write is made from. -/

namespace Sys2Proof.Machine

/-- The empty test as the parity of the entry (40_pte_codec.md R103). -/
theorem pteIsEmpty_iff (raw : Word) : pteIsEmpty raw = true ↔ raw.toNat % 2 = 0 := by
  simp [pteIsEmpty, pteV_eq]

/-- A walk creates a node past `CHECK`, under create, below an entry read empty (41_walker.md R136). -/
theorem creating_iff (w : Walker) :
    creating w = true ↔ descending w = true ∧ w.createQ = true ∧ w.entQ.toNat % 2 = 0 := by
  simp [creating, pteIsEmpty_iff, and_assoc]

theorem walkerOk_zrReq {w : Walker} (h : w.st = .zrReq) : walkerOk w = true ↔ creating w = true ∧ w.ziQ.toNat < 512 := by
  simp [walkerOk, h]

theorem walkerOk_inReq {w : Walker} (h : w.st = .inReq) : walkerOk w = true ↔ creating w = true ∧ w.ziQ = 512 := by
  simp [walkerOk, h]

/-- Below the last count the truncation of R146 loses nothing. -/
theorem zeroAddr_toNat {w : Walker} (h : w.ziQ.toNat < 512) :
    (zeroAddr w).toNat = w.newQ.toNat * 4096 + w.ziQ.toNat * 8 := by
  rw [zeroAddr_eq_setWidth, entryPa_toNat, BitVec.toNat_setWidth, Nat.mod_eq_of_lt h]

/-- Everything a request on the memory port can be. -/
theorem memReq_cases {s : State} {r : MemReq} (h : memReq s = some r) :
    (s.walker.st = .rdReq ∧ r = ⟨false, slotAddr s.walker, 0⟩) ∨
    (s.walker.st = .zrReq ∧ r = ⟨true, zeroAddr s.walker, 0⟩) ∨
    (s.walker.st = .inReq ∧ r = ⟨true, slotAddr s.walker, branchEntry s.walker.newQ⟩) := by
  have hv : memReqValid s = true := by
    by_contra hn
    simp [memReq_of_not_valid (Bool.eq_false_iff.mpr hn)] at h
  rw [memReq_of_valid hv] at h
  obtain ⟨hs | hs | hs, -⟩ := memReqValid_iff.mp hv
  · exact .inl ⟨hs, Option.some.inj (h.symm.trans (requestOf_rdReq hs))⟩
  · exact .inr (.inl ⟨hs, Option.some.inj (h.symm.trans (requestOf_zrReq hs))⟩)
  · exact .inr (.inr ⟨hs, Option.some.inj (h.symm.trans (requestOf_inReq hs))⟩)

/-- Settles O48: each requesting state's request, the invariant of that state bounding the zero counter and giving the
policy and the empty entry of an install. -/
theorem memoryRequestsAreOfThreeKinds : Obligations.MemoryRequestsAreOfThreeKinds := by
  intro s r hi hr
  obtain ⟨-, rfl⟩ | ⟨hs, rfl⟩ | ⟨hs, rfl⟩ := memReq_cases hr
  case inl => exact ⟨entryPa_aligned _ _, .inl ⟨rfl, rfl, rfl⟩⟩
  case inr.inl =>
    obtain ⟨-, hz⟩ := (walkerOk_zrReq hs).mp hi.walker
    have ha := zeroAddr_toNat hz
    exact ⟨entryPa_aligned _ _, .inr (.inl ⟨rfl, by dsimp only; omega, ha, rfl⟩)⟩
  case inr.inr =>
    obtain ⟨hc, -⟩ := (walkerOk_inReq hs).mp hi.walker
    obtain ⟨-, hp, he⟩ := (creating_iff _).mp hc
    exact ⟨entryPa_aligned _ _, .inr (.inr ⟨rfl, rfl, branchEntry_toNat _, he, hp⟩)⟩

end Sys2Proof.Machine
end

section
/-! The codec's outputs and operations (40_pte_codec.md R100 to R110): each output as arithmetic on the codec's inputs,
each operation as the inputs it drives and the result it sets, and the round trips. -/

namespace Sys2Proof.Machine

/-! ### The outputs as arithmetic -/

theorem encPpnOutOfRange_iff (ppn : Word) : encPpnOutOfRange ppn = true ↔ 2 ^ 44 ≤ ppn.toNat := decide_eq_true_iff

theorem paOutOfRange_iff (pa : Word) : paOutOfRange pa = true ↔ 2 ^ 56 ≤ pa.toNat := by
  rw [paOutOfRange_eq, decide_eq_true_iff]

theorem encRawO_toNat (s : State) :
    (encRawO s).toNat = s.codec.encPpnI.toNat % 2 ^ 44 * 2 ^ 10 + s.codec.encFlagsI.toNat := by
  rw [encRawO, pteEncode_toNat, encPpnLow_toNat]

/-- The encode assertion is driven under `DEBUG_ASSERT` alone (R101). -/
theorem encErrO_iff (s : State) : encErrO s = true ↔ s.platform.debugAssert = true ∧ 2 ^ 44 ≤ s.codec.encPpnI.toNat := by
  rw [encErrO, Bool.and_eq_true, encPpnOutOfRange_iff]

theorem encErrO_of_lt {s : State} (h : s.codec.encPpnI.toNat < 2 ^ 44) : encErrO s = false :=
  Bool.eq_false_iff.mpr fun he => Nat.not_le.mpr h ((encErrO_iff s).mp he).2

/-- The address assertion is driven under `DEBUG_ASSERT` alone (R107). -/
theorem paErrO_iff (s : State) : paErrO s = true ↔ s.platform.debugAssert = true ∧ 2 ^ 56 ≤ s.codec.paI.toNat := by
  rw [paErrO, Bool.and_eq_true, paOutOfRange_iff]

theorem paErrO_of_lt {s : State} (h : s.codec.paI.toNat < 2 ^ 56) : paErrO s = false :=
  Bool.eq_false_iff.mpr fun he => Nat.not_le.mpr h ((paErrO_iff s).mp he).2

theorem paUnalO_eq (s : State) : paUnalO s = decide (s.codec.paI.toNat % 2 ^ 12 ≠ 0) := paUnaligned_eq s.codec.paI

theorem catPa_toNat (ppn : Ppn) (off : Off) : (catPa ppn off).toNat = ppn.toNat * 2 ^ 12 + off.toNat := by
  rw [catPa, BitVec.toNat_append, ← Nat.shiftLeft_add_eq_or_of_lt off.isLt, Nat.shiftLeft_eq]

/-! ### The classifications as arithmetic -/

/-- R104. -/
theorem pteIsBranch_iff (raw : Word) : pteIsBranch raw = true ↔ raw.toNat % 2 = 1 ∧ raw.toNat / 2 % 8 = 0 := by
  simp [pteIsBranch, pteV_eq, pteRwx_eq_zero]

/-- R105. -/
theorem pteIsLeaf_iff (raw : Word) : pteIsLeaf raw = true ↔ raw.toNat % 2 = 1 ∧ raw.toNat / 2 % 8 ≠ 0 := by
  simp [pteIsLeaf, pteV_eq, pteRwx_eq_zero]

/-- R110: `kind_at` as arithmetic on bits 3:0 of the entry and the level. -/
theorem kindAt_eq (raw : Word) (level : Nat) : kindAt raw level =
    if raw.toNat % 2 = 0 then .empty
    else if raw.toNat / 2 % 8 ≠ 0 ∨ level = 0 then .leaf else .branch := by
  simp [kindAt, pteV_eq, pteRwx_eq_zero]

/-! ### The operations: the inputs driven and the result set, nothing else changed -/

/-- `ENCODE` in range (R100): the assertion is not raised. -/
theorem exec_encode_of_lt {ppn : Word} (h : ppn.toNat < 2 ^ 44) (flags : Flags) (s : State) :
    exec (.encode ppn flags) s = .next (setResult (.encode (pteEncode (encPpnLow ppn) flags) false)
      (setCodec { s.codec with encPpnI := ppn, encFlagsI := flags } s)) := by
  have hr : ¬ encPpnOutOfRange ppn = true := (encPpnOutOfRange_iff ppn).not.mpr (Nat.not_le.mpr h)
  have he : encErrO (setCodec { s.codec with encPpnI := ppn, encFlagsI := flags } s) = false := encErrO_of_lt h
  rw [exec, execEncode, if_neg hr, he]
  rfl

/-- `ENCODE` out of range, whatever `DEBUG_ASSERT` is (R101). -/
theorem exec_encode_of_ge {ppn : Word} (h : 2 ^ 44 ≤ ppn.toNat) (flags : Flags) (s : State) :
    exec (.encode ppn flags) s = .fault .encodePpnRange :=
  if_pos ((encPpnOutOfRange_iff ppn).mpr h)

theorem exec_encode_fault_iff (ppn : Word) (flags : Flags) (s : State) :
    exec (.encode ppn flags) s = .fault .encodePpnRange ↔ 2 ^ 44 ≤ ppn.toNat := by
  refine ⟨fun h => ?_, fun h => exec_encode_of_ge h flags s⟩
  by_contra hn
  rw [exec_encode_of_lt (Nat.not_le.mp hn)] at h
  exact nomatch h

theorem exec_decode (raw : Word) (s : State) : exec (.decode raw) s =
    .next (setResult (.decode (ptePpn raw) (pteFlags raw)) (setCodec { s.codec with decRawI := raw } s)) := rfl

theorem exec_isEmpty (raw : Word) (s : State) : exec (.isEmpty raw) s =
    .next (setResult (.isEmpty (pteIsEmpty raw)) (setCodec { s.codec with decRawI := raw } s)) := rfl

theorem exec_isBranch (raw : Word) (s : State) : exec (.isBranch raw) s =
    .next (setResult (.isBranch (pteIsBranch raw)) (setCodec { s.codec with decRawI := raw } s)) := rfl

theorem exec_isLeaf (raw : Word) (s : State) : exec (.isLeaf raw) s =
    .next (setResult (.isLeaf (pteIsLeaf raw)) (setCodec { s.codec with decRawI := raw } s)) := rfl

/-- `PA_TO_PPN` in range (R107): the assertion is not raised. -/
theorem exec_paToPpn_of_lt {pa : Word} (h : pa.toNat < 2 ^ 56) (s : State) : exec (.paToPpn pa) s =
    .next (setResult (.paToPpn (paPpn pa) (paOff pa) false (paUnaligned pa)) (setCodec { s.codec with paI := pa } s)) := by
  have hr : ¬ paOutOfRange pa = true := (paOutOfRange_iff pa).not.mpr (Nat.not_le.mpr h)
  have he : paErrO (setCodec { s.codec with paI := pa } s) = false := paErrO_of_lt h
  rw [exec, execPaToPpn, if_neg hr, he]
  rfl

/-- `PA_TO_PPN` out of range, whatever `DEBUG_ASSERT` is (60_exceptions.md R188). -/
theorem exec_paToPpn_of_ge {pa : Word} (h : 2 ^ 56 ≤ pa.toNat) (s : State) :
    exec (.paToPpn pa) s = .fault .paRange :=
  if_pos ((paOutOfRange_iff pa).mpr h)

theorem exec_ppnToPa (ppn : Ppn) (off : Off) (s : State) : exec (.ppnToPa ppn off) s =
    .next (setResult (.ppnToPa (catPa ppn off)) (setCodec { s.codec with catPpnI := ppn, catOffI := off } s)) := rfl

/-! ### The round trips on values -/

theorem encPpnLow_eq_setWidth (ppn : Word) : encPpnLow ppn = ppn.setWidth 44 :=
  (BitVec.setWidth_eq_extractLsb' (show 44 ≤ 64 by decide)).symm

/-- A PPN on the 64-bit port `enc_ppn_i` is packed whole. -/
theorem encPpnLow_setWidth (ppn : Ppn) : encPpnLow (ppn.setWidth 64) = ppn := by
  rw [encPpnLow_eq_setWidth, BitVec.setWidth_setWidth_of_le _ (show 44 ≤ 64 by decide), BitVec.setWidth_eq]

/-- R109: an entry packed again from its fields is the entry with `RSVD` cleared. -/
theorem pteEncode_ptePpn_pteFlags (raw : Word) :
    pteEncode (ptePpn raw) (pteFlags raw) = raw &&& 0x003FFFFFFFFFFFFF := by
  have hmask : (raw &&& 0x003FFFFFFFFFFFFF).toNat = raw.toNat % 2 ^ 54 := by
    rw [BitVec.toNat_and]
    exact Nat.and_two_pow_sub_one_eq_mod _ 54
  apply BitVec.eq_of_toNat_eq
  rw [hmask, pteEncode_toNat, ptePpn_toNat, pteFlags_toNat]
  omega

/-- R109: an address on the 64-bit port `pa_i`, put together again from its parts. -/
theorem catPa_paPpn_paOff (pa : Pa) : catPa (paPpn (pa.setWidth 64)) (paOff (pa.setWidth 64)) = pa := by
  have h := pa.isLt
  apply BitVec.eq_of_toNat_eq
  rw [catPa_toNat, paPpn_toNat, paOff_toNat, BitVec.toNat_setWidth_of_le (show 56 ≤ 64 by decide)]
  omega

/-! ### The obligations -/

/-- Settles O7: the packing is `encRawO_toNat`, in range the truncation loses nothing, out of range the model faults. -/
theorem encodeBuildsTheEntry : Obligations.EncodeBuildsTheEntry := by
  refine ⟨fun s => ⟨encRawO_toNat s, fun hd => ?err⟩, fun ppn flags s h => ?inRange,
    fun _ flags s h => exec_encode_of_ge h flags s⟩
  case err => rw [encErrO_iff, and_iff_right hd]
  case inRange =>
    refine ⟨pteEncode (encPpnLow ppn) flags, ?_, exec_encode_of_lt h flags s⟩
    rw [pteEncode_toNat, encPpnLow_toNat, Nat.mod_eq_of_lt h]

/-- Settles O10: each result is the arithmetic form of its test. -/
theorem classificationsReadPresentAndPermissionBits : Obligations.ClassificationsReadPresentAndPermissionBits := by
  intro raw s
  simp only [← pteIsEmpty_iff, ← pteIsBranch_iff, ← pteIsLeaf_iff, Bool.decide_eq_true]
  exact ⟨exec_isEmpty raw s, exec_isBranch raw s, exec_isLeaf raw s⟩

/-- Settles O12: the fields are `paPpn_toNat` and `paOff_toNat`; below 2^56 the PPN's truncation loses nothing. -/
theorem paToPpnSplitsTheAddress : Obligations.PaToPpnSplitsTheAddress := by
  refine ⟨fun s => ⟨paPpn_toNat _, paOff_toNat _, paErrO_iff s, ?unal⟩, fun pa s h => ?inRange,
    fun _ s h => exec_paToPpn_of_ge h s⟩
  case unal => rw [paUnalO_eq, decide_eq_true_iff]
  case inRange =>
    refine ⟨paPpn pa, paOff pa, ?_, paOff_toNat pa, paUnaligned_eq pa ▸ exec_paToPpn_of_lt h s⟩
    rw [paPpn_toNat, Nat.mod_eq_of_lt (by omega)]

/-- Settles O14: each pair of operations runs in range, and its results are those of a round trip on values. -/
theorem codecRoundTrips : Obligations.CodecRoundTrips := by
  refine ⟨fun s ppn flags h => ?decodeEncode, fun s raw => ?encodeDecode, fun s pa => ?ppnToPa⟩
  case decodeEncode =>
    refine ⟨_, _, _, exec_encode_of_lt h flags s, rfl, exec_decode _ _, ?_⟩
    rw [setResult_result, ptePpn_pteEncode, pteFlags_pteEncode, encPpnLow_eq_setWidth]
  case encodeDecode =>
    have h : ((ptePpn raw).setWidth 64).toNat < 2 ^ 44 := by
      rw [BitVec.toNat_setWidth_of_le (show 44 ≤ 64 by decide)]
      exact (ptePpn raw).isLt
    refine ⟨_, _, _, _, exec_decode raw s, rfl, exec_encode_of_lt h (pteFlags raw) _, ?_⟩
    rw [setResult_result, encPpnLow_setWidth, pteEncode_ptePpn_pteFlags]
  case ppnToPa =>
    have h : (pa.setWidth 64).toNat < 2 ^ 56 := by
      rw [BitVec.toNat_setWidth_of_le (show 56 ≤ 64 by decide)]
      exact pa.isLt
    refine ⟨_, _, _, _, _, exec_paToPpn_of_lt h s, rfl, exec_ppnToPa _ _ _, ?_⟩
    rw [setResult_result, catPa_paPpn_paOff]

/-- Settles O8: the outputs depend on `DEBUG_ASSERT` as R101 says, the fault does not. -/
theorem encodeAssertionWhateverDebugAssert : Obligations.EncodeAssertionWhateverDebugAssert :=
  ⟨encErrO_iff, encRawO_toNat, exec_encode_fault_iff⟩

/-- Settles O9: the two fields as numbers, and the operation that sets them. -/
theorem decodeSplitsTheEntry : Obligations.DecodeSplitsTheEntry := fun raw s =>
  ⟨ptePpn raw, pteFlags raw, ptePpn_toNat raw, pteFlags_toNat raw, exec_decode raw s⟩

/-- Settles O11: in each case of `kind_cases` one of the three is 1. -/
theorem exactlyOneClassificationHolds : Obligations.ExactlyOneClassificationHolds := by
  intro s
  rw [decIsEmptyO, decIsBranchO, decIsLeafO]
  obtain ⟨he, hb, hl⟩ | ⟨he, hb, hl⟩ | ⟨he, hb, hl⟩ := kind_cases s.codec.decRawI <;> rw [he, hb, hl] <;> rfl

/-- Settles O13: the concatenation as a number, and the operation that sets it. -/
theorem ppnToPaConcatenates : Obligations.PpnToPaConcatenates := fun ppn off s =>
  ⟨catPa ppn off, catPa_toNat ppn off, exec_ppnToPa ppn off s⟩

/-- Settles O15: above level 0 the arithmetic forms of `kind_at` and of the three tests are the same. -/
theorem kindAtQualifiesByLevel : Obligations.KindAtQualifiesByLevel := by
  refine ⟨kindAt_eq, fun raw level hl => ?_⟩
  have h0 : level ≠ 0 := by omega
  rw [kindAt_eq, pteIsEmpty_iff, pteIsBranch_iff, pteIsLeaf_iff]
  obtain hv | hv := Nat.mod_two_eq_zero_or_one raw.toNat
  · simp [hv]
  · by_cases hp : raw.toNat / 2 % 8 = 0
    · simp [hv, hp, h0]
    · simp [hv, hp]

end Sys2Proof.Machine
end

section
/-! `VA_SPLIT` (41_walker.md R130): the fields and the canonical test as arithmetic. -/

namespace Sys2Proof.Machine

theorem exec_vaSplit (va : Word) (s : State) : exec (.vaSplit va) s =
    .next (setResult (.vaSplit (canonical va) (vpnAt va 2) (vpnAt va 1) (vpnAt va 0) (vaOff va))
      (setCodec { s.codec with vaI := va } s)) := rfl

/-- Settles O16: the fields are `vpnAt_toNat` and `vaOff_toNat`, the test is the two ranges of `canonical_eq`. -/
theorem vaSplitDecomposesTheAddress : Obligations.VaSplitDecomposesTheAddress := fun va s =>
  ⟨vpnAt va 2, vpnAt va 1, vpnAt va 0, vaOff va, vpnAt_toNat va 2, vpnAt_toNat va 1, vpnAt_toNat va 0, vaOff_toNat va,
    canonical_eq va ▸ exec_vaSplit va s⟩

end Sys2Proof.Machine
end

section
/-! One edge of the clocked walker in the states that serve the host, the memory's answer to a read and the allocator's
answer (41_walker.md R140, R141, R143, R145, R149, R150). -/

namespace Sys2Proof.Machine

section
variable {s : State}

/-! ### The outputs and the transition of a state -/

/-- In `CHECK` and while an answer is awaited no output is valid (41_walker.md section 3). -/
theorem silent_of_st
    (h : s.walker.st = .check ∨ s.walker.st = .rdWait ∨ s.walker.st = .alWait ∨ s.walker.st = .zrWait ∨
      s.walker.st = .inWait) : silent s := by
  obtain h | h | h | h | h := h <;> simp [silent, reqReady, rspValid, memReqValid, allocReqValid, h]

/-- In `RSP` without reset the response registers are offered (10_state.md R26). -/
theorem rspOut_of_rsp (h : s.walker.st = .rsp) (hr : s.pins.rst = false) : rspOut s = some (responseOf s.walker) :=
  if_pos (rspValid_iff.mpr ⟨h, hr⟩)

theorem fsmEdge_idle (h : s.walker.st = .idle) : fsmEdge s = edgeIdle s := by simp only [fsmEdge, h]

theorem fsmEdge_check (h : s.walker.st = .check) : fsmEdge s = edgeCheck s := by simp only [fsmEdge, h]

theorem fsmEdge_rdWait (h : s.walker.st = .rdWait) : fsmEdge s = edgeRdWait s := by simp only [fsmEdge, h]

theorem fsmEdge_alWait (h : s.walker.st = .alWait) : fsmEdge s = edgeAlWait s := by simp only [fsmEdge, h]

theorem fsmEdge_rsp (h : s.walker.st = .rsp) : fsmEdge s = edgeRsp s := by simp only [fsmEdge, h]

theorem edgeAlWait_ok (hv : s.pins.allocRspValid = true) (hk : s.pins.allocRspOk = true) :
    edgeAlWait s = .next (setWalker (goto .zrReq (latchFrame s.pins.allocRspPpn s.walker))
      (record (.alloc (.ok s.pins.allocRspPpn)) s)) := by
  rw [edgeAlWait, if_pos hv, if_pos hk]

theorem edgeAlWait_refused (hv : s.pins.allocRspValid = true) (hk : s.pins.allocRspOk = false) :
    edgeAlWait s = .next (setWalker (finish .outOfMemory s.walker.lvlQ s.walker.nodeQ (idxQ s.walker) s.walker)
      (record (.alloc .outOfMemory) s)) := by
  rw [edgeAlWait, if_pos hv, if_neg (by simp [hk])]

theorem edgeRsp_taken (h : s.pins.rspReady = true) : edgeRsp s = .next (takeResponse s) := if_pos h

theorem edgeRsp_held (h : s.pins.rspReady = false) : edgeRsp s = .next s := if_neg (by simp [h])

end

/-! ### From the clock edge to the transition -/

section
variable {p : Pins} {s : State}

/-- A request meets `req_ready` in `IDLE`, so none is held there. -/
theorem requestHeld_of_idle (h : s.walker.st = .idle) (hr : p.rst = false) : requestHeld p s = false := by
  simp [requestHeld, h, hr]

/-- Outside `IDLE` every request offered is held (10_state.md R25). -/
theorem requestHeld_of_busy (h : s.walker.st ≠ .idle) : requestHeld p s = p.reqValid := by simp [requestHeld, h]

/-- With no memory answer awaited, an edge that keeps the protocol brings none and is the FSM's transition. -/
theorem clockEdge_of_noMem (hr : p.rst = false) (hb : protocolBroken p s = false)
    (ho : memOutstanding s.walker = false) : clockEdge p s = fsmEdge (setPins p (requestHeld p s) s) :=
  clockEdge_fsm hr hb (answersUnadmitted_of_silent (memRsp_of_kept hb ho))

theorem clockEdge_idle (h : s.walker.st = .idle) (hr : p.rst = false) (hb : protocolBroken p s = false) :
    clockEdge p s = edgeIdle (setPins p false s) := by
  rw [clockEdge_of_noMem hr hb (by simp [memOutstanding, h]), requestHeld_of_idle h hr]
  exact fsmEdge_idle h

theorem clockEdge_check (h : s.walker.st = .check) (hr : p.rst = false) (hb : protocolBroken p s = false) :
    clockEdge p s = edgeCheck (setPins p p.reqValid s) := by
  rw [clockEdge_of_noMem hr hb (by simp [memOutstanding, h]), requestHeld_of_busy (by simp [h])]
  exact fsmEdge_check h

theorem clockEdge_alWait (h : s.walker.st = .alWait) (hr : p.rst = false) (hb : protocolBroken p s = false) :
    clockEdge p s = edgeAlWait (setPins p p.reqValid s) := by
  rw [clockEdge_of_noMem hr hb (by simp [memOutstanding, h]), requestHeld_of_busy (by simp [h])]
  exact fsmEdge_alWait h

theorem clockEdge_rsp (h : s.walker.st = .rsp) (hr : p.rst = false) (hb : protocolBroken p s = false) :
    clockEdge p s = edgeRsp (setPins p p.reqValid s) := by
  rw [clockEdge_of_noMem hr hb (by simp [memOutstanding, h]), requestHeld_of_busy (by simp [h])]
  exact fsmEdge_rsp h

/-- The state whose registers hold the entry the memory answers at an edge, the read noted (R143). -/
def entryLatched (p : Pins) (s : State) : State :=
  setWalker (latchEntry p.memRspRdata s.walker)
    (record (.read (slotAddr s.walker) p.memRspRdata) (setPins p p.reqValid s))

/-- R143: a served read answered with a value its word has held is latched, and its kind decides. -/
theorem clockEdge_rdWait_answer (h : s.walker.st = .rdWait) (hr : p.rst = false) (hb : protocolBroken p s = false)
    (hv : p.memRspValid = true) (ha : admits s.platform (slotAddr s.walker) = true)
    (hh : readHeld p.memRspRdata s = true) :
    clockEdge p s = edgeEntry p.memRspRdata (entryLatched p s) := by
  have hq : requestAddr s.walker = slotAddr s.walker := by rw [requestAddr, h]
  have hu : answersUnadmitted p s = false := by rw [answersUnadmitted, hq, ha, Bool.not_true, Bool.and_false]
  rw [clockEdge_fsm hr hb hu, requestHeld_of_busy (by simp [h])]
  exact (fsmEdge_rdWait (s := setPins p p.reqValid s) h).trans (edgeRdWait_answer (s := setPins p p.reqValid s) hv hh)

end

/-! ### The obligations -/

/-- Settles O40: `edgeEntry` at the entry latched, by the kind of the entry, the policy and the level. -/
theorem readEntryDecidesTheWalk : Obligations.ReadEntryDecidesTheWalk := by
  intro p s hs hr hb hv hl ha hd r w idx
  have hh : readHeld p.memRspRdata s = true := by
    rw [readHeld, Bool.or_eq_true, decide_eq_true_iff, List.contains_iff_mem]
    exact hd
  refine ⟨silent_of_st (.inr (.inl hs)), ?_⟩
  rw [clockEdge_rdWait_answer hs hr hb hv ha hh]
  obtain ⟨he, -, -⟩ | ⟨-, hbr, -⟩ | ⟨-, -, hlf⟩ := kind_cases r
  case inl =>
    rw [if_pos ((pteIsEmpty_iff r).mp he)]
    by_cases hc : s.walker.createQ = true
    · rw [if_pos hc]
      exact edgeEntry_create (s := entryLatched p s) he hc
    · rw [if_neg hc]
      exact edgeEntry_notMapped (s := entryLatched p s) he (Bool.eq_false_iff.mpr hc)
  case inr.inl =>
    obtain ⟨h1, h0⟩ := (pteIsBranch_iff r).mp hbr
    rw [edgeEntry_branch hbr, if_neg (by omega), if_neg (not_not.mpr h0)]
    obtain h2 | h2 := hl
    · rw [if_pos h2]
      exact edgeDescend_two (s := entryLatched p s) h2 _
    · rw [if_neg (by simp [w, h2])]
      exact edgeDescend_one (s := entryLatched p s) h2 _
  case inr.inr =>
    obtain ⟨h1, h0⟩ := (pteIsLeaf_iff r).mp hlf
    rw [edgeEntry_leaf hlf, if_neg (by omega), if_pos h0]
    rfl

/-- Settles O38: the outputs by state, then `edgeIdle` with a request offered and `edgeCheck` in both cases. -/
theorem requestIsLatchedThenChecked : Obligations.RequestIsLatchedThenChecked := by
  refine ⟨fun s hr => ⟨fun hs => ?idle, fun hs => silent_of_st (.inl hs)⟩, fun p s hs hr hb hv => ?request,
    fun p s hs hr hb => ?check⟩
  case idle => exact ⟨reqReady_iff.mpr ⟨hs, hr⟩, by simp [rspValid, hs], by simp [memReqValid, hs],
    by simp [allocReqValid, hs]⟩
  case request => exact (clockEdge_idle hs hr hb).trans (edgeIdle_request (s := setPins p false s) hv)
  case check =>
    rw [clockEdge_check hs hr hb]
    cases hc : canonical s.walker.vaQ
    · exact edgeCheck_noncanonical (s := setPins p p.reqValid s) hc
    · exact edgeCheck_canonical (s := setPins p p.reqValid s) hc

/-- Settles O41: `edgeAlWait` at either answer. -/
theorem allocatorAnswerStartsTheZeroFill : Obligations.AllocatorAnswerStartsTheZeroFill := by
  intro p s hs hr hb hv
  refine ⟨silent_of_st (.inr (.inr (.inl hs))), ?_⟩
  rw [clockEdge_alWait hs hr hb]
  cases hk : p.allocRspOk
  · exact edgeAlWait_refused (s := setPins p p.reqValid s) hv hk
  · exact edgeAlWait_ok (s := setPins p p.reqValid s) hv hk

/-- Settles O44: the response offered is that of the registers, which an edge without `rsp_ready` leaves alone. -/
theorem responseIsHeldUntilTaken : Obligations.ResponseIsHeldUntilTaken := by
  intro p s hs hr hpr hb
  refine ⟨rspOut_of_rsp hs hr, fun ht => ?taken, fun ht => ?held⟩
  case taken => exact (clockEdge_rsp hs hpr hb).trans (edgeRsp_taken (s := setPins p p.reqValid s) ht)
  case held => exact ⟨setPins p p.reqValid s, (clockEdge_rsp hs hpr hb).trans (edgeRsp_held ht), rfl,
    rspValid_iff.mpr ⟨hs, hpr⟩, rspOut_of_rsp (s := setPins p p.reqValid s) hs hpr⟩

end Sys2Proof.Machine
end

section
/-! `WALK.NC` by its pseudocode (41_walker.md R133): what its turns keep, what a turn does with the entry it visits, and
the ends of the loop. -/

namespace Sys2Proof.Machine

/-- What a walk that only reads leaves as it was: memory, the allocator and the rest of the state. -/
def onlyReads (s t : State) : Prop := t.mem = s.mem ∧ allocatorSame s t ∧ walkKeeps s t

theorem onlyReads_beginWalk (va : Word) (root : Ppn) (create : Bool) (s : State) :
    onlyReads s (beginWalk va root create s) := ⟨rfl, ⟨rfl, rfl⟩, rfl, rfl, rfl, rfl, rfl⟩

/-- The walk stands at `level` before the entry of `node` at `idx`, which is served and holds `raw`. -/
def visits (level : Lvl) (s : State) (node : Ppn) (idx : Idx) (raw : Word) : Prop :=
  s.walker.nodeQ = node ∧ vpn s.walker.vaQ level = idx ∧ entryIs s node idx raw

section
variable {s u : State}

theorem onlyReads_afterRead (h : onlyReads s u) (level : Lvl) : onlyReads s (afterRead level u) := h

theorem onlyReads_descendInto (h : onlyReads s u) (p : Ppn) (below : Lvl) : onlyReads s (descendInto p below u) := h

theorem onlyReads_ended (h : onlyReads s u) (x : Status) (level : Lvl) (node : Ppn) (idx : Idx) :
    onlyReads s (ended x level node idx u) := h

/-- What an entry holds rests on memory and the parameters, which a walk that only reads keeps. -/
theorem onlyReads_entryIs (h : onlyReads s u) {node : Ppn} {idx : Idx} {raw : Word} (he : entryIs s node idx raw) :
    entryIs u node idx raw := by
  obtain ⟨hm, -, -, hp, -⟩ := h
  rw [entryIs, hm, hp]
  exact he

end

theorem ended_answered (x : Status) (level : Lvl) (node : Ppn) (idx : Idx) (s : State) :
    answered (ended x level node idx s) x level node idx := ⟨rfl, rfl⟩

/-- The transactions once the entry of a level has been read. -/
theorem afterRead_txns (level : Lvl) (s : State) : (afterRead level s).txns =
    .read (entryPa s.walker.nodeQ (vpn s.walker.vaQ level)) (entryAt level s) :: s.txns := rfl

section
variable {level : Lvl} {s : State} {node : Ppn} {idx : Idx} {raw : Word} (h : visits level s node idx raw)
include h

theorem afterRead_txns_of_visits : (afterRead level s).txns = .read (entryPa node idx) raw :: s.txns := by
  obtain ⟨rfl, rfl, -, rfl⟩ := h
  exact afterRead_txns level s

theorem ncLevel_empty_of_visits (he : pteIsEmpty raw = true) (below : Lvl) (k : State → Out) :
    ncLevel level below k s = .next (ended .notMapped level node idx (afterRead level s)) := by
  obtain ⟨rfl, rfl, hs, rfl⟩ := h
  exact ncLevel_empty hs he

theorem ncLevel_leaf_of_visits (hl : pteIsLeaf raw = true) (below : Lvl) (k : State → Out) :
    ncLevel level below k s = .next (ended .blockedBySuperpage level node idx (afterRead level s)) := by
  obtain ⟨rfl, rfl, hs, rfl⟩ := h
  exact ncLevel_leaf hs hl

theorem ncLevel_branch_of_visits (hb : pteIsBranch raw = true) (below : Lvl) (k : State → Out) :
    ncLevel level below k s = k (descendInto (ptePpn raw) below (afterRead level s)) := by
  obtain ⟨rfl, rfl, hs, rfl⟩ := h
  exact ncLevel_branch hs hb

end

/-- Every way the turn at level 1 can end the loop: one read, a response by the entry's kind, and nothing else moved. -/
theorem ncLevel_one_ends {s c : State} {va : Word} {node : Ppn} {raw : Word} (hk : onlyReads s c)
    (hva : c.walker.vaQ = va) (h : visits 1 c node (vpnAt va 1) raw) :
    ∃ t, ncLevel 1 0 respondOk c = .next t ∧
      t.txns = .read (entryPa node (vpnAt va 1)) raw :: c.txns ∧ onlyReads s t ∧
      (pteIsEmpty raw = true → answered t .notMapped 1 node (vpnAt va 1)) ∧
      (pteIsLeaf raw = true → answered t .blockedBySuperpage 1 node (vpnAt va 1)) ∧
      (pteIsBranch raw = true → answered t .ok 0 (ptePpn raw) (vpnAt va 0)) := by
  have hx := afterRead_txns_of_visits h
  have hr := onlyReads_afterRead hk 1
  obtain ⟨he, hb, hl⟩ | ⟨he, hb, hl⟩ | ⟨he, hb, hl⟩ := kind_cases raw <;>
    simp only [he, hb, hl, Bool.false_eq_true, false_imp_iff, true_imp_iff, and_true, true_and]
  case inl =>
    exact ⟨_, ncLevel_empty_of_visits h he 0 respondOk, hx, onlyReads_ended hr _ _ _ _, ended_answered _ _ _ _ _⟩
  case inr.inl =>
    subst hva
    exact ⟨_, ncLevel_branch_of_visits h hb 0 respondOk, hx,
      onlyReads_ended (onlyReads_descendInto hr (ptePpn raw) 0) _ _ _ _, ended_answered _ _ _ _ _⟩
  case inr.inr =>
    exact ⟨_, ncLevel_leaf_of_visits h hl 0 respondOk, hx, onlyReads_ended hr _ _ _ _, ended_answered _ _ _ _ _⟩

/-- On a canonical address an idle walker runs the loop from the handshake's state. -/
theorem exec_walkNc_canonical {s : State} {va : Word} (hs : s.walker.st = .idle) (hc : canonical va = true)
    (root : Ppn) :
    exec (.walkNc va root) s = ncLevel 2 1 (ncLevel 1 0 respondOk) (beginWalk va root false s) :=
  (exec_walkNc_of_idle hs va root).trans (checkCanonical_pos hc)

/-- Settles O22: the turn at level 2 reads its entry and ends or goes on by the entry's kind, the turn at level 1 is
`ncLevel_one_ends`, and nothing else moves (`onlyReads`). -/
theorem walkNcFollowsItsPseudocode : Obligations.WalkNcFollowsItsPseudocode := by
  intro s va root hs
  have hb := onlyReads_beginWalk va root false s
  refine ⟨fun hc => ?noncanonical, fun hc raw2 he2 => ?canonical⟩
  case noncanonical =>
    exact ⟨_, (exec_walkNc_of_idle hs va root).trans (checkCanonical_neg hc), ended_answered _ _ _ _ _, rfl,
      onlyReads_ended hb _ _ _ _⟩
  case canonical =>
    rw [exec_walkNc_canonical hs hc root]
    have h2 : visits 2 (beginWalk va root false s) root (vpnAt va 2) raw2 :=
      ⟨rfl, vpn_two va, onlyReads_entryIs hb he2⟩
    have hx := afterRead_txns_of_visits h2
    have hr := onlyReads_afterRead hb 2
    refine ⟨fun he => ?empty, fun hl => ?leaf, fun hbr raw1 he1 => ?branch⟩
    case empty =>
      exact ⟨_, ncLevel_empty_of_visits h2 he 1 _, ended_answered _ _ _ _ _, hx, onlyReads_ended hr _ _ _ _⟩
    case leaf =>
      exact ⟨_, ncLevel_leaf_of_visits h2 hl 1 _, ended_answered _ _ _ _ _, hx, onlyReads_ended hr _ _ _ _⟩
    case branch =>
      have hd := onlyReads_descendInto hr (ptePpn raw2) 1
      obtain ⟨t, ht, htx, ⟨hm, ha, hk⟩, hends⟩ :=
        ncLevel_one_ends hd rfl ⟨rfl, vpn_one va, onlyReads_entryIs hd he1⟩
      exact ⟨t, (ncLevel_branch_of_visits h2 hbr 1 _).trans ht, htx.trans (congrArg _ hx), hm, ha, hk, hends⟩

end Sys2Proof.Machine
end

section
/-! The bounds on a walk's transactions (41_walker.md R138): what one turn of each loop adds, and the sum of two. -/

namespace Sys2Proof.Machine

/-- The transactions that `n` turns of the create loop can make: in each a read, an allocation, the 512 zero writes and
the install (R134, R135). -/
def turnsSpend (n : Nat) (l : List Txn) : Prop :=
  l.countP isReadTxn ≤ n ∧ l.countP isAllocTxn ≤ n ∧ l.countP isWriteTxn ≤ n * 513

/-- At most `n` transactions, all of them reads. -/
def readsAtMost (n : Nat) (l : List Txn) : Prop := l.length ≤ n ∧ l.countP isReadTxn = l.length

/-- `t` is the end of a walk at `u`, with another status than `INVALID_ADDRESS`. -/
def endsPastCheck (u t : State) : Prop :=
  ∃ (x : Status) (l : Lvl) (node : Ppn) (idx : Idx), x ≠ .invalidAddress ∧ t = ended x l node idx u

theorem endsPastCheck_txns {u t : State} (h : endsPastCheck u t) : t.txns = u.txns := by
  obtain ⟨x, l, node, idx, -, rfl⟩ := h
  rfl

/-- The status codes differ (30_encoding.md R88). -/
theorem statusCode_eq_invalidAddress {x : Status} (h : statusCode x = statusCode .invalidAddress) :
    x = .invalidAddress := by
  cases x
  case invalidAddress => rfl
  all_goals exact absurd h (by decide)

theorem endsPastCheck_status {u t : State} {r : Response} (h : endsPastCheck u t) (hr : t.result = .walk r) :
    r.status ≠ statusCode .invalidAddress := by
  obtain ⟨x, l, node, idx, hx, rfl⟩ := h
  injection hr with hr
  subst hr
  exact fun hs => hx (statusCode_eq_invalidAddress hs)

theorem respondOk_ends {u t : State} (h : respondOk u = .next t) : endsPastCheck u t := by
  rw [respondOk_eq] at h
  injection h with h
  exact ⟨.ok, _, _, _, by decide, h.symm⟩

/-! ### The lists of transactions -/

theorem turnsSpend_mono {m n : Nat} {l : List Txn} (h : turnsSpend m l) (hmn : m ≤ n) : turnsSpend n l := by
  obtain ⟨hr, ha, hw⟩ := h
  exact ⟨hr.trans hmn, ha.trans hmn, hw.trans (Nat.mul_le_mul_right 513 hmn)⟩

theorem turnsSpend_append {m n : Nat} {l l' : List Txn} (h : turnsSpend m l) (h' : turnsSpend n l') :
    turnsSpend (m + n) (l ++ l') := by
  obtain ⟨hr, ha, hw⟩ := h
  obtain ⟨hr', ha', hw'⟩ := h'
  rw [turnsSpend, List.countP_append, List.countP_append, List.countP_append]
  omega

/-- A turn that makes no node. -/
theorem turnsSpend_read (pa : Pa) (v : Word) : turnsSpend 1 [.read pa v] := by
  simp [turnsSpend, isReadTxn, isAllocTxn, isWriteTxn]

/-- A turn that the allocator refuses. -/
theorem turnsSpend_refused (a : AllocAnswer) (pa : Pa) (v : Word) : turnsSpend 1 [.alloc a, .read pa v] := by
  simp [turnsSpend, List.countP_cons, isReadTxn, isAllocTxn, isWriteTxn]

/-- The zero writes of R135: 512 writes and nothing else. -/
theorem zeroTxns_counts (new : Ppn) : (zeroTxns new).countP isReadTxn = 0 ∧ (zeroTxns new).countP isAllocTxn = 0 ∧
    (zeroTxns new).countP isWriteTxn = 512 := by
  simp [zeroTxns, List.countP_map, Function.comp_def, isReadTxn, isAllocTxn, isWriteTxn]

/-- A turn that makes a node. -/
theorem turnsSpend_create (pa : Pa) (v : Word) (new : Ppn) (a : AllocAnswer) (pa' : Pa) (v' : Word) :
    turnsSpend 1 (.write pa v :: (zeroTxns new ++ [.alloc a, .read pa' v'])) := by
  obtain ⟨hr, ha, hw⟩ := zeroTxns_counts new
  simp [turnsSpend, List.countP_cons, hr, ha, hw, isReadTxn, isAllocTxn, isWriteTxn]

/-! ### One turn -/

/-- A turn's transactions once the allocator has answered. -/
theorem answer_txns {level : Lvl} {s s' : State} {a : AllocAnswer} (h : nextAnswer (afterRead level s) = some (a, s')) :
    (record (.alloc a) s').txns =
      [.alloc a, .read (entryPa s.walker.nodeQ (vpn s.walker.vaQ level)) (entryAt level s)] ++ s.txns := by
  obtain ⟨-, htx, -⟩ := nextAnswer_frame h
  rw [record_txns, htx, afterRead_txns]
  rfl

/-- A turn's transactions once a node has been made: the zero writes, then the install (R134). -/
theorem create_txns {level : Lvl} {s s' : State} {a : AllocAnswer} (h : nextAnswer (afterRead level s) = some (a, s'))
    (below : Lvl) (new : Ppn) : (afterCreate level below new (record (.alloc a) s')).txns =
      (.write (entryPa s'.walker.nodeQ (vpn s'.walker.vaQ level)) (branchEntry new) :: (zeroTxns new ++
        [.alloc a, .read (entryPa s.walker.nodeQ (vpn s.walker.vaQ level)) (entryAt level s)])) ++ s.txns := by
  rw [List.cons_append, List.append_assoc, ← answer_txns h]
  rfl

section
variable {level below : Lvl} {k : State → Out} {s t : State}

/-- A turn of the create loop ends the walk or goes on below, one turn's transactions made. -/
theorem cLevel_turn (h : cLevel level below k s = .next t) :
    ∃ u l, u.txns = l ++ s.txns ∧ turnsSpend 1 l ∧ (endsPastCheck u t ∨ k u = .next t) := by
  obtain ⟨-, ⟨-, h⟩ | ⟨-, h⟩ | ⟨-, h⟩⟩ := cLevel_eq_next h
  case inl => exact ⟨_, [_], rfl, turnsSpend_read _ _, .inr h⟩
  case inr.inl =>
    obtain ⟨a, s', ha, h⟩ := createNode_eq_next h
    obtain ⟨-, rfl⟩ | ⟨new, -, -, -, h⟩ := h
    · exact ⟨_, _, answer_txns ha, turnsSpend_refused _ _ _, .inl ⟨_, _, _, _, by decide, rfl⟩⟩
    · exact ⟨_, _, create_txns ha below new, turnsSpend_create _ _ _ _ _ _, .inr h⟩
  case inr.inr => exact ⟨_, [_], rfl, turnsSpend_read _ _, .inl ⟨_, _, _, _, by decide, h⟩⟩

/-- A turn of the no-create loop ends the walk or goes on below, one read made. -/
theorem ncLevel_turn (h : ncLevel level below k s = .next t) :
    ∃ u pa v, u.txns = .read pa v :: s.txns ∧ (endsPastCheck u t ∨ k u = .next t) := by
  obtain ⟨-, ⟨-, h⟩ | ⟨-, h⟩ | ⟨-, h⟩⟩ := ncLevel_eq_next h
  case inl => exact ⟨_, _, _, rfl, .inr h⟩
  case inr.inl => exact ⟨_, _, _, rfl, .inl ⟨_, _, _, _, by decide, h⟩⟩
  case inr.inr => exact ⟨_, _, _, rfl, .inl ⟨_, _, _, _, by decide, h⟩⟩

end

/-! ### Both turns -/

/-- The create loop ends the walk after at most two turns. -/
theorem cLoop_ends {s t : State} (h0 : s.txns = []) (h : cLevel 2 1 (cLevel 1 0 respondOk) s = .next t) :
    ∃ u, endsPastCheck u t ∧ turnsSpend 2 u.txns := by
  obtain ⟨u, l, hu, hl, he | h⟩ := cLevel_turn h
  case inl =>
    rw [h0, List.append_nil] at hu
    exact ⟨u, he, hu ▸ turnsSpend_mono hl (by decide)⟩
  obtain ⟨v, l', hv, hl', h⟩ := cLevel_turn h
  rw [hu, h0, List.append_nil] at hv
  exact ⟨v, h.elim id respondOk_ends, hv ▸ turnsSpend_append hl' hl⟩

/-- The no-create loop ends the walk after at most two reads. -/
theorem ncLoop_ends {s t : State} (h0 : s.txns = []) (h : ncLevel 2 1 (ncLevel 1 0 respondOk) s = .next t) :
    ∃ u, endsPastCheck u t ∧ readsAtMost 2 u.txns := by
  obtain ⟨u, pa, v, hu, he | h⟩ := ncLevel_turn h
  case inl =>
    rw [h0] at hu
    exact ⟨u, he, by simp [readsAtMost, hu, isReadTxn]⟩
  obtain ⟨w, pa', v', hw, h⟩ := ncLevel_turn h
  rw [hu, h0] at hw
  exact ⟨w, h.elim id respondOk_ends, by simp [readsAtMost, hw, List.countP_cons, isReadTxn]⟩

/-- A `WALK.C` that answers refused the address with no transaction, or ended past the check within two turns. -/
theorem exec_walkC_ends {s t : State} {va : Word} {root : Ppn} (h : exec (.walkC va root) s = .next t) :
    t.txns = [] ∨ ∃ u, endsPastCheck u t ∧ turnsSpend 2 u.txns := by
  obtain ⟨b, -, ⟨hi, -⟩ | ⟨-, h⟩⟩ := exec_walk_eq_next (.inr rfl) h
  case inl => exact nomatch hi
  obtain ⟨-, h⟩ | ⟨-, rfl⟩ := checkCanonical_eq_next h
  case inl => exact .inr (cLoop_ends rfl h)
  case inr => exact .inl rfl

/-- A `WALK.NC` that answers refused the address with no transaction, or ended past the check within two reads. -/
theorem exec_walkNc_ends {s t : State} {va : Word} {root : Ppn} (h : exec (.walkNc va root) s = .next t) :
    t.txns = [] ∨ ∃ u, endsPastCheck u t ∧ readsAtMost 2 u.txns := by
  obtain ⟨b, -, ⟨-, h⟩ | ⟨hi, -⟩⟩ := exec_walk_eq_next (.inl rfl) h
  case inr => exact nomatch hi
  obtain ⟨-, h⟩ | ⟨-, rfl⟩ := checkCanonical_eq_next h
  case inl => exact .inr (ncLoop_ends rfl h)
  case inr => exact .inl rfl

/-- Settles O32: an answer is a refused address with no transaction, or the end of at most two turns. -/
theorem walkTransactionBounds : Obligations.WalkTransactionBounds := by
  refine ⟨fun s t va root h => ?create, fun s t va root h => ?noCreate, fun s t va root i r hi h hr hst => ?refused⟩
  case create =>
    obtain h0 | ⟨u, he, hrd, hal, hwr⟩ := exec_walkC_ends h
    · simp [h0]
    · rw [endsPastCheck_txns he]
      exact ⟨hrd, hal, hwr, by omega⟩
  case noCreate =>
    obtain h0 | ⟨u, he, hu⟩ := exec_walkNc_ends h
    · simp [h0]
    · rw [endsPastCheck_txns he]
      exact hu
  case refused =>
    obtain rfl | rfl := hi
    · obtain h0 | ⟨u, he, -⟩ := exec_walkNc_ends h
      · exact h0
      · exact absurd hst (endsPastCheck_status he hr)
    · obtain h0 | ⟨u, he, -⟩ := exec_walkC_ends h
      · exact h0
      · exact absurd hst (endsPastCheck_status he hr)

end Sys2Proof.Machine
end

section
/-! How walks end early (60_exceptions.md R182, R184, R185): a non-canonical address, a leaf on the path, an allocator
that refuses. -/

namespace Sys2Proof.Machine

/-! ### Either walk -/

/-- The turn of either walk's loop: the create walk's with `req_create` = 1 (41_walker.md R133, R134). -/
def walkTurn : Bool → Lvl → Lvl → (State → Out) → State → Out
  | false => ncLevel
  | true => cLevel

/-- A non-canonical address ends either walk at the handshake's state. -/
theorem exec_walk_noncanonical {i : Instr} {s : State} {va : Word} {root : Ppn}
    (hi : i = .walkNc va root ∨ i = .walkC va root) (hs : s.walker.st = .idle) (hc : canonical va = false) :
    ∃ create, exec i s = .next (ended .invalidAddress 3 0 0 (beginWalk va root create s)) := by
  obtain rfl | rfl := hi
  · exact ⟨false, (exec_walkNc_of_idle hs va root).trans (checkCanonical_neg hc)⟩
  · exact ⟨true, (exec_walkC_of_idle hs va root).trans (checkCanonical_neg hc)⟩

/-- On a canonical address an idle walker runs the create loop from the handshake's state. -/
theorem exec_walkC_canonical {s : State} {va : Word} (hs : s.walker.st = .idle) (hc : canonical va = true)
    (root : Ppn) :
    exec (.walkC va root) s = cLevel 2 1 (cLevel 1 0 respondOk) (beginWalk va root true s) :=
  (exec_walkC_of_idle hs va root).trans (checkCanonical_pos hc)

/-- On a canonical address an idle walker runs the loop of the walk asked for. -/
theorem exec_walk_canonical {i : Instr} {s : State} {va : Word} {root : Ppn}
    (hi : i = .walkNc va root ∨ i = .walkC va root) (hs : s.walker.st = .idle) (hc : canonical va = true) :
    ∃ create, exec i s =
      walkTurn create 2 1 (walkTurn create 1 0 respondOk) (beginWalk va root create s) := by
  obtain rfl | rfl := hi
  · exact ⟨false, exec_walkNc_canonical hs hc root⟩
  · exact ⟨true, exec_walkC_canonical hs hc root⟩

theorem entryPa_zero : entryPa 0 0 = 0 := by decide

/-- Settles O29: the range is that of the addresses `canonical` refuses, and the check comes before the loop. -/
theorem nonCanonicalAddressIsRejectedFirst : Obligations.NonCanonicalAddressIsRejectedFirst := by
  intro s va root i hs hlo hhi hi
  have hc : canonical va = false := by
    rw [canonical_eq, decide_eq_false_iff_not]
    omega
  obtain ⟨create, h⟩ := exec_walk_noncanonical hi hs hc
  obtain ⟨hm, ha, hk⟩ := onlyReads_ended (onlyReads_beginWalk va root create s) .invalidAddress 3 0 0
  exact ⟨_, h, by rw [ended_result, entryPa_zero]; rfl, rfl, rfl, hm, ha, hk⟩

/-! ### The entries on the path -/

section
variable {s : State} {va : Word} {raw : Word} (root : Ppn) (create : Bool)

/-- After the handshake a walk stands at level 2 before the root's entry. -/
theorem visits_two_of_entryIs (he : entryIs s root (vpnAt va 2) raw) :
    visits 2 (beginWalk va root create s) root (vpnAt va 2) raw :=
  ⟨rfl, vpn_two va, onlyReads_entryIs (onlyReads_beginWalk va root create s) he⟩

/-- The state of a walk gone down through a branch at level 2 that names `node`. -/
def belowBranch (va : Word) (root : Ppn) (create : Bool) (node : Ppn) (s : State) : State :=
  descendInto node 1 (afterRead 2 (beginWalk va root create s))

theorem onlyReads_belowBranch (va : Word) (root : Ppn) (create : Bool) (node : Ppn) (s : State) :
    onlyReads s (belowBranch va root create node s) :=
  onlyReads_descendInto (onlyReads_afterRead (onlyReads_beginWalk va root create s) 2) node 1

/-- Below a branch a walk stands at level 1 before the entry of the node named. -/
theorem visits_one_of_entryIs {node : Ppn} (he : entryIs s node (vpnAt va 1) raw) :
    visits 1 (belowBranch va root create node s) node (vpnAt va 1) raw :=
  ⟨rfl, vpn_one va, onlyReads_entryIs (onlyReads_belowBranch va root create node s) he⟩

end

/-! ### A leaf on the path -/

section
variable {level : Lvl} {s : State} {node : Ppn} {idx : Idx} {raw : Word} (h : visits level s node idx raw)
include h

theorem cLevel_branch_of_visits (hb : pteIsBranch raw = true) (below : Lvl) (k : State → Out) :
    cLevel level below k s = k (descendInto (ptePpn raw) below (afterRead level s)) := by
  obtain ⟨rfl, rfl, hs, rfl⟩ := h
  exact cLevel_branch hs hb

theorem cLevel_leaf_of_visits (hl : pteIsLeaf raw = true) (below : Lvl) (k : State → Out) :
    cLevel level below k s = .next (ended .blockedBySuperpage level node idx (afterRead level s)) := by
  obtain ⟨rfl, rfl, hs, rfl⟩ := h
  exact cLevel_leaf hs hl

/-- Both walks go down through a branch alike. -/
theorem walkTurn_branch_of_visits (hb : pteIsBranch raw = true) (create : Bool) (below : Lvl) (k : State → Out) :
    walkTurn create level below k s = k (descendInto (ptePpn raw) below (afterRead level s)) := by
  cases create
  case false => exact ncLevel_branch_of_visits h hb below k
  case true => exact cLevel_branch_of_visits h hb below k

/-- Both walks stop at a leaf alike. -/
theorem walkTurn_leaf_of_visits (hl : pteIsLeaf raw = true) (create : Bool) (below : Lvl) (k : State → Out) :
    walkTurn create level below k s = .next (ended .blockedBySuperpage level node idx (afterRead level s)) := by
  cases create
  case false => exact ncLevel_leaf_of_visits h hl below k
  case true => exact cLevel_leaf_of_visits h hl below k

end

/-- If `t` shows the answer `BLOCKED_BY_SUPERPAGE`, its last transaction is the read of a leaf at the slot reported. -/
def leafReadLast (t : State) : Prop :=
  ∀ r : Response, t.result = .walk r → r.status = statusCode .blockedBySuperpage →
    ∃ raw, t.txns.head? = some (.read r.slotPa raw) ∧ pteIsLeaf raw = true

/-- No other status has the code of `BLOCKED_BY_SUPERPAGE` (30_encoding.md R88). -/
theorem statusCode_ne_blocked {x : Status} (h : x ≠ .blockedBySuperpage) :
    statusCode x ≠ statusCode .blockedBySuperpage := by
  cases x
  case blockedBySuperpage => exact absurd rfl h
  all_goals decide

/-- A walk that ends with another status has no such answer. -/
theorem leafReadLast_ended {x : Status} (h : x ≠ .blockedBySuperpage) (level : Lvl) (node : Ppn) (idx : Idx)
    (u : State) : leafReadLast (ended x level node idx u) := by
  intro r hr hst
  rw [ended_result] at hr
  injection hr with hr
  subst hr
  exact absurd hst (statusCode_ne_blocked h)

/-- A turn that stops at a leaf has just read it. -/
theorem leafReadLast_ended_of_leaf {level : Lvl} {s : State} (h : pteIsLeaf (entryAt level s) = true) :
    leafReadLast (ended .blockedBySuperpage level s.walker.nodeQ (vpn s.walker.vaQ level) (afterRead level s)) := by
  intro r hr _
  rw [ended_result] at hr
  injection hr with hr
  subst hr
  exact ⟨entryAt level s, rfl, h⟩

/-- A turn of the no-create loop stops at a leaf just read or with another status, or leaves the end to the turn below. -/
theorem ncLevel_leafReadLast {level below : Lvl} {k : State → Out} {s t : State}
    (hk : ∀ u, k u = .next t → leafReadLast t) (h : ncLevel level below k s = .next t) : leafReadLast t := by
  obtain ⟨-, ⟨-, h⟩ | ⟨-, rfl⟩ | ⟨hl, rfl⟩⟩ := ncLevel_eq_next h
  case inl => exact hk _ h
  case inr.inl => exact leafReadLast_ended (by decide) _ _ _ _
  case inr.inr => exact leafReadLast_ended_of_leaf hl

/-- The same of the create loop, whose turn at an empty entry ends with the allocator's refusal or goes on below. -/
theorem cLevel_leafReadLast {level below : Lvl} {k : State → Out} {s t : State}
    (hk : ∀ u, k u = .next t → leafReadLast t) (h : cLevel level below k s = .next t) : leafReadLast t := by
  obtain ⟨-, ⟨-, h⟩ | ⟨-, h⟩ | ⟨hl, rfl⟩⟩ := cLevel_eq_next h
  case inl => exact hk _ h
  case inr.inl =>
    obtain ⟨a, s', -, ⟨-, rfl⟩ | ⟨new, -, -, -, h⟩⟩ := createNode_eq_next h
    · exact leafReadLast_ended (by decide) _ _ _ _
    · exact hk _ h
  case inr.inr => exact leafReadLast_ended_of_leaf hl

theorem respondOk_leafReadLast {u t : State} (h : respondOk u = .next t) : leafReadLast t := by
  rw [respondOk_eq] at h
  injection h with h
  subst h
  exact leafReadLast_ended (by decide) _ _ _ _

theorem checkCanonical_leafReadLast {k : State → Out} {u t : State} (hk : k u = .next t → leafReadLast t)
    (h : checkCanonical k u = .next t) : leafReadLast t := by
  obtain ⟨-, h⟩ | ⟨-, rfl⟩ := checkCanonical_eq_next h
  case inl => exact hk h
  case inr => exact leafReadLast_ended (by decide) _ _ _ _

/-- Settles O30: both walks go through the same branches and stop at the same leaf, and no other end of either loop has
the status. -/
theorem superpageBlocksBothWalks : Obligations.SuperpageBlocksBothWalks := by
  refine ⟨fun s va root raw2 i hs hc hi he2 hl => ?levelTwo,
    fun s va root raw2 raw1 i hs hc hi he2 hb he1 hl => ?levelOne, fun s t va root i r hi h hr hst => ?lastRead⟩
  case levelTwo =>
    obtain ⟨create, h⟩ := exec_walk_canonical hi hs hc
    have h2 := visits_two_of_entryIs root create he2
    obtain ⟨hm, ha, -⟩ := onlyReads_ended (onlyReads_afterRead (onlyReads_beginWalk va root create s) 2)
      .blockedBySuperpage 2 root (vpnAt va 2)
    exact ⟨_, h.trans (walkTurn_leaf_of_visits h2 hl create 1 _), ended_answered _ _ _ _ _, hm, ha⟩
  case levelOne =>
    obtain ⟨create, h⟩ := exec_walk_canonical hi hs hc
    have h2 := visits_two_of_entryIs root create he2
    have h1 := visits_one_of_entryIs root create he1
    obtain ⟨hm, ha, -⟩ := onlyReads_ended (onlyReads_afterRead (onlyReads_belowBranch va root create (ptePpn raw2) s) 1)
      .blockedBySuperpage 1 (ptePpn raw2) (vpnAt va 1)
    exact ⟨_, (h.trans (walkTurn_branch_of_visits h2 hb create 1 _)).trans (walkTurn_leaf_of_visits h1 hl create 0 _),
      ended_answered _ _ _ _ _, hm, ha⟩
  case lastRead =>
    obtain ⟨u, -, ⟨-, h⟩ | ⟨-, h⟩⟩ := exec_walk_eq_next hi h
    · exact checkCanonical_leafReadLast
        (ncLevel_leafReadLast fun _ => ncLevel_leafReadLast fun _ => respondOk_leafReadLast) h r hr hst
    · exact checkCanonical_leafReadLast
        (cLevel_leafReadLast fun _ => cLevel_leafReadLast fun _ => respondOk_leafReadLast) h r hr hst

/-! ### An allocator that refuses -/

theorem walkKeeps_trans {s t u : State} (h : walkKeeps s t) (h' : walkKeeps t u) : walkKeeps s u := by
  obtain ⟨hc, hp, hh, hl, hr⟩ := h
  obtain ⟨hc', hp', hh', hl', hr'⟩ := h'
  exact ⟨hc'.trans hc, hp'.trans hp, hh'.trans hh, hl'.trans hl, hr'.trans hr⟩

/-- Memory once the frame `new` is zeroed and the entry of `node` at `idx` names it (41_walker.md R135, R147). -/
def grown (m : Mem) (node : Ppn) (idx : Idx) (new : Ppn) : Mem :=
  memSetWord (memZeroFrame m new) (entryPa node idx).toNat (branchEntry new)

section
variable {m : Mem} {node new : Ppn} {idx : Idx} (hm : memWf m = true)
include hm

theorem memWord_grown_slot : memWord (grown m node idx new) (entryPa node idx).toNat = branchEntry new :=
  memWord_entry_same (memWf_memZeroFrame hm new) node idx _

/-- The entry named is outside the new frame, so each entry of the frame is 0. -/
theorem memWord_grown_new (hn : new ≠ node) (i : Idx) :
    memWord (grown m node idx new) (entryPa new i).toNat = 0 :=
  (memWord_entry_other (memWf_memZeroFrame hm new) _ fun ⟨h, _⟩ => hn h.symm).trans (memWord_zeroFrame_inside hm new i)

theorem memByte_grown_new (hn : new ≠ node) {a : Nat} (ha : inFrame new a) :
    memByte (grown m node idx new) a = 0 := by
  have hout : ¬inEntry (entryPa node idx) a := fun h =>
    hn (BitVec.eq_of_toNat_eq (ha.symm.trans ((inside_entryPa_iff node idx a).1 h).1))
  rw [grown, memByte_memSetWord (memWf_memZeroFrame hm new) _ (entryPa_inside node idx), if_neg hout,
    memByte_memZeroFrame hm, if_pos ha]

theorem memByte_grown_other {a : Nat} (hf : ¬inFrame new a) (he : ¬inEntry (entryPa node idx) a) :
    memByte (grown m node idx new) a = memByte m a := by
  rw [grown, memByte_memSetWord (memWf_memZeroFrame hm new) _ (entryPa_inside node idx), if_neg he,
    memByte_memZeroFrame hm, if_neg hf]

end

section
variable {level : Lvl} {c s s' : State} {node : Ppn} {idx : Idx} {raw : Word} (h : visits level c node idx raw)
  (he : pteIsEmpty raw = true) (hs : allocatorSame s c)
include h he hs

/-- A refusal at an empty entry ends the create walk there, with nothing written. -/
theorem cLevel_refused_of_visits (ha : nextAnswer s = some (.outOfMemory, s')) (below : Lvl) (k : State → Out) :
    ∃ t, cLevel level below k c = .next t ∧ answered t .outOfMemory level node idx ∧ t.mem = c.mem ∧
      t.txns = .alloc .outOfMemory :: .read (entryPa node idx) raw :: c.txns ∧ allocatorSame s' t ∧ walkKeeps c t := by
  obtain ⟨rfl, rfl, hserved, rfl⟩ := h
  obtain ⟨hscript, hdraws⟩ := hs
  have ha' := nextAnswer_congr (t := afterRead level c) ha hscript hdraws
  exact ⟨_, (cLevel_empty hserved he).trans (createNode_refused ha'), ended_answered _ _ _ _ _, rfl, rfl, ⟨rfl, rfl⟩,
    rfl, rfl, rfl, rfl, rfl⟩

/-- A frame given at an empty entry is zeroed and installed there, and the create walk goes on in it. -/
theorem cLevel_granted_of_visits {new : Ppn} (ha : nextAnswer s = some (.ok new, s'))
    (hf : frameAdmitted c.platform new = true) (below : Lvl) (k : State → Out) :
    ∃ u, cLevel level below k c = k u ∧ u.walker.nodeQ = new ∧ u.walker.vaQ = c.walker.vaQ ∧
      u.mem = grown c.mem node idx new ∧ allocatorSame s' u ∧ walkKeeps c u := by
  obtain ⟨rfl, rfl, hserved, rfl⟩ := h
  obtain ⟨hscript, hdraws⟩ := hs
  have ha' := nextAnswer_congr (t := afterRead level c) ha hscript hdraws
  exact ⟨_, (cLevel_empty hserved he).trans (createNode_granted ha' hf hserved), rfl, rfl, rfl, ⟨rfl, rfl⟩,
    rfl, rfl, rfl, rfl, rfl⟩

end

/-- Settles O27: each turn at an empty entry is refused there or makes its node (`grown`), and the node made holds an
empty entry for the turn below. -/
theorem outOfMemoryLeavesTheTreeValid : Obligations.OutOfMemoryLeavesTheTreeValid := by
  refine ⟨fun s s2 va root raw2 hs hc he2 hempty ha => ?levelTwo,
    fun s s1 va root raw2 raw1 hs hc he2 hb he1 hempty ha => ?levelOne,
    fun s s2 s1 va root f raw2 hs hwf hc he2 hempty ha2 ha1 hf hroot => ?newNode⟩
  all_goals
    rw [exec_walkC_canonical hs hc root]
    have h2 := visits_two_of_entryIs root true he2
    obtain ⟨-, hal0, hk0⟩ := onlyReads_beginWalk va root true s
  case levelTwo =>
    obtain ⟨t, h, hans, hm, htx, hal, hk⟩ := cLevel_refused_of_visits h2 hempty hal0 ha 1 (cLevel 1 0 respondOk)
    exact ⟨t, h, hans, hm, htx, hal, walkKeeps_trans hk0 hk⟩
  case levelOne =>
    obtain ⟨hm1, hal1, hk1⟩ := onlyReads_belowBranch va root true (ptePpn raw2) s
    obtain ⟨t, h, hans, hm, -, hal, hk⟩ :=
      cLevel_refused_of_visits (visits_one_of_entryIs root true he1) hempty hal1 ha 0 respondOk
    exact ⟨t, (cLevel_branch_of_visits h2 hb 1 _).trans h, hans, hm.trans hm1, hal, walkKeeps_trans hk1 hk⟩
  case newNode =>
    obtain ⟨u, hu, hnode, hva, hum, hual, huk⟩ :=
      cLevel_granted_of_visits h2 hempty hal0 ha2 hf 1 (cLevel 1 0 respondOk)
    have h1 : visits 1 u f (vpnAt va 1) 0 := by
      refine ⟨hnode, congrArg (vpn · 1) hva, ?served, ?zero⟩
      case served =>
        obtain ⟨-, hp, -⟩ := huk
        rw [hp]
        exact admits_of_frameAdmitted hf _
      case zero =>
        rw [hum]
        exact memWord_grown_new hwf hroot _
    obtain ⟨t, h, hans, hm, -, hal, hk⟩ := cLevel_refused_of_visits h1 (by decide) hual ha1 0 respondOk
    have hmem : t.mem = grown s.mem root (vpnAt va 2) f := hm.trans hum
    refine ⟨t, hu.trans h, hans, ?slot, fun a ha => ?frame, fun a hout he => ?others, hal,
      walkKeeps_trans hk0 (walkKeeps_trans huk hk)⟩ <;> rw [hmem]
    case slot => exact memWord_grown_slot hwf
    case frame => exact memByte_grown_new hwf hroot ha
    case others => exact memByte_grown_other hwf hout he

end Sys2Proof.Machine
end

section
/-! Operation words (30_encoding.md R93 to R95): the fields of a packed word, every way a word can decode, and the step
that takes a word. -/

namespace Sys2Proof

/-! ### The fields of a packed word -/

section
variable (o : BitVec 4) (v : Word)

@[simp] theorem packWord_opid : (packWord o v).opid = o := by
  have h := o.isLt
  apply BitVec.eq_of_toNat_eq
  rw [OpWord.opid_toNat, packWord_toNat]
  omega

@[simp] theorem packWord_word : (packWord o v).word = v := by
  have h := o.isLt
  have hv := v.isLt
  apply BitVec.eq_of_toNat_eq
  rw [OpWord.word_toNat, packWord_toNat]
  omega

theorem packWord_lt : (packWord o v).toNat < 2 ^ 68 := by
  have h := o.isLt
  have hv := v.isLt
  rw [packWord_toNat]
  omega

variable (root : Ppn)

@[simp] theorem packWalk_opid : (packWalk o v root).opid = o := by
  have h := o.isLt
  apply BitVec.eq_of_toNat_eq
  rw [OpWord.opid_toNat, packWalk_toNat]
  omega

@[simp] theorem packWalk_word : (packWalk o v root).word = v := by
  have h := o.isLt
  have hv := v.isLt
  apply BitVec.eq_of_toNat_eq
  rw [OpWord.word_toNat, packWalk_toNat]
  omega

@[simp] theorem packWalk_root : (packWalk o v root).root = root := by
  have h := o.isLt
  have hv := v.isLt
  have hr := root.isLt
  apply BitVec.eq_of_toNat_eq
  rw [OpWord.root_toNat, packWalk_toNat]
  omega

end

section
variable (ppn : Word) (flags : Flags)

@[simp] theorem encode_encode_opid : (encode (.encode ppn flags)).opid = 0#4 := by
  apply BitVec.eq_of_toNat_eq
  rw [OpWord.opid_toNat, encode_encode_toNat, BitVec.toNat_ofNat]
  omega

@[simp] theorem encode_encode_word : (encode (.encode ppn flags)).word = ppn := by
  have h := ppn.isLt
  apply BitVec.eq_of_toNat_eq
  rw [OpWord.word_toNat, encode_encode_toNat]
  omega

@[simp] theorem encode_encode_flags : (encode (.encode ppn flags)).flags = flags := by
  have h := ppn.isLt
  have hf := flags.isLt
  apply BitVec.eq_of_toNat_eq
  rw [OpWord.flags_toNat, encode_encode_toNat]
  omega

end

section
variable (ppn : Ppn) (off : Off)

@[simp] theorem encode_ppnToPa_opid : (encode (.ppnToPa ppn off)).opid = 6#4 := by
  apply BitVec.eq_of_toNat_eq
  rw [OpWord.opid_toNat, encode_ppnToPa_toNat, BitVec.toNat_ofNat]
  omega

@[simp] theorem encode_ppnToPa_catPpn : (encode (.ppnToPa ppn off)).catPpn = ppn := by
  have h := ppn.isLt
  apply BitVec.eq_of_toNat_eq
  rw [OpWord.catPpn_toNat, encode_ppnToPa_toNat]
  omega

@[simp] theorem encode_ppnToPa_catOff : (encode (.ppnToPa ppn off)).catOff = off := by
  have h := ppn.isLt
  have ho := off.isLt
  apply BitVec.eq_of_toNat_eq
  rw [OpWord.catOff_toNat, encode_ppnToPa_toNat]
  omega

end

/-! ### Decoding a word -/

theorem decode_encode (i : Instr) : decode (encode i) = .ok i := by
  cases i with
  | encode ppn flags => simp [decode]
  | decode raw => simp [decode, encode]
  | isEmpty raw => simp [decode, encode]
  | isBranch raw => simp [decode, encode]
  | isLeaf raw => simp [decode, encode]
  | paToPpn pa => simp [decode, encode]
  | ppnToPa ppn off => simp [decode]
  | vaSplit va => simp [decode, encode]
  | walkNc va root => simp [decode, encode]
  | walkC va root => simp [decode, encode]

theorem encode_opid (i : Instr) : (encode i).opid = i.opid := by
  cases i with
  | encode ppn flags => exact encode_encode_opid ppn flags
  | ppnToPa ppn off => exact encode_ppnToPa_opid ppn off
  | walkNc va root => exact packWalk_opid _ va root
  | walkC va root => exact packWalk_opid _ va root
  | decode v => exact packWord_opid _ v
  | isEmpty v => exact packWord_opid _ v
  | isBranch v => exact packWord_opid _ v
  | isLeaf v => exact packWord_opid _ v
  | paToPpn v => exact packWord_opid _ v
  | vaSplit v => exact packWord_opid _ v

theorem opid_assigned (i : Instr) : opidAssigned i.opid = true := by cases i <;> rfl

/-- An operation's word has no bit above its operands. -/
theorem encode_toNat_lt (i : Instr) : (encode i).toNat < 2 ^ opWordBits i.opid := by
  cases i with
  | encode ppn flags =>
    have h := ppn.isLt
    have hf := flags.isLt
    rw [encode_encode_toNat, show opWordBits (Instr.encode ppn flags).opid = 78 from rfl]
    omega
  | ppnToPa ppn off =>
    have h := ppn.isLt
    have ho := off.isLt
    rw [encode_ppnToPa_toNat, show opWordBits (Instr.ppnToPa ppn off).opid = 60 from rfl]
    omega
  | walkNc va root => exact (encode (.walkNc va root)).isLt
  | walkC va root => exact (encode (.walkC va root)).isLt
  | decode v => exact packWord_lt _ v
  | isEmpty v => exact packWord_lt _ v
  | isBranch v => exact packWord_lt _ v
  | isLeaf v => exact packWord_lt _ v
  | paToPpn v => exact packWord_lt _ v
  | vaSplit v => exact packWord_lt _ v

/-! ### The word an operation was decoded from -/

section
variable (w : OpWord)

/-- The word packed again from the fields is the word cut above its operand. -/
theorem packWord_of_fields : (packWord w.opid w.word).toNat = w.toNat % 2 ^ 68 := by
  rw [packWord_toNat, OpWord.word_toNat, OpWord.opid_toNat]
  omega

/-- A walk's operands fill the word. -/
theorem packWalk_of_fields : (packWalk w.opid w.word w.root).toNat = w.toNat % 2 ^ 112 := by
  have h := w.isLt
  rw [packWalk_toNat, OpWord.word_toNat, OpWord.opid_toNat, OpWord.root_toNat]
  omega

theorem encode_of_fields (h : w.opid.toNat = 0) : (encode (.encode w.word w.flags)).toNat = w.toNat % 2 ^ 78 := by
  rw [OpWord.opid_toNat] at h
  rw [encode_encode_toNat, OpWord.word_toNat, OpWord.flags_toNat]
  omega

theorem ppnToPa_of_fields (h : w.opid.toNat = 6) :
    (encode (.ppnToPa w.catPpn w.catOff)).toNat = w.toNat % 2 ^ 60 := by
  rw [OpWord.opid_toNat] at h
  rw [encode_ppnToPa_toNat, OpWord.catPpn_toNat, OpWord.catOff_toNat]
  omega

end

/-- Everything a word that decodes can be: its OPID, and the operation with the word's fields as operands (R94). -/
theorem decode_cases {w : OpWord} {i : Instr} (h : decode w = .ok i) :
    (w.opid = 0#4 ∧ i = .encode w.word w.flags) ∨ (w.opid = 1#4 ∧ i = .decode w.word) ∨
    (w.opid = 2#4 ∧ i = .isEmpty w.word) ∨ (w.opid = 3#4 ∧ i = .isBranch w.word) ∨
    (w.opid = 4#4 ∧ i = .isLeaf w.word) ∨ (w.opid = 5#4 ∧ i = .paToPpn w.word) ∨
    (w.opid = 6#4 ∧ i = .ppnToPa w.catPpn w.catOff) ∨ (w.opid = 7#4 ∧ i = .vaSplit w.word) ∨
    (w.opid = 8#4 ∧ i = .walkNc w.word w.root) ∨ (w.opid = 9#4 ∧ i = .walkC w.word w.root) := by
  unfold decode at h
  split at h
  case h_11 => exact nomatch h
  all_goals
    injection h with h
    simp [← BitVec.toNat_inj, *]

/-- Bits 3:0 of a word that decodes are the operation's OPID. -/
theorem decode_opid {w : OpWord} {i : Instr} (h : decode w = .ok i) : i.opid = w.opid := by
  obtain ⟨ho, rfl⟩ | ⟨ho, rfl⟩ | ⟨ho, rfl⟩ | ⟨ho, rfl⟩ | ⟨ho, rfl⟩ | ⟨ho, rfl⟩ | ⟨ho, rfl⟩ | ⟨ho, rfl⟩ |
    ⟨ho, rfl⟩ | ⟨ho, rfl⟩ := decode_cases h <;> rw [ho] <;> rfl

theorem decode_reserved {w : OpWord} (h : 10 ≤ w.opid.toNat) : decode w = .error (.reservedOpid w.opid) := by
  unfold decode
  split
  case h_11 => rfl
  all_goals omega

theorem decode_assigned {w : OpWord} (h : w.opid.toNat ≤ 9) : ∃ i, decode w = .ok i := by
  unfold decode
  generalize w.opid.toNat = n at h ⊢
  interval_cases n <;> exact ⟨_, rfl⟩

/-! ### The obligations -/

/-- Settles O1: each field of the word packed is the operand, and no bit stands above them. -/
theorem decodeOfEncodeIsTheOperation : Obligations.DecodeOfEncodeIsTheOperation := by
  intro i _
  refine ⟨decode_encode i, ?_⟩
  show (opidAssigned (encode i).opid && decide ((encode i).toNat < 2 ^ opWordBits (encode i).opid)) = true
  rw [encode_opid, opid_assigned, Bool.true_and, decide_eq_true_iff]
  exact encode_toNat_lt i

/-- Settles O2: an operation decoded has the word's fields, and they are packed where they stood. -/
theorem encodeOfDecodeKeepsOpidAndOperandBits : Obligations.EncodeOfDecodeKeepsOpidAndOperandBits := by
  intro w i h
  show (encode i).toNat = w.toNat % 2 ^ opWordBits w.opid
  have hw := packWord_of_fields w
  have hk := packWalk_of_fields w
  obtain ⟨ho, rfl⟩ | ⟨ho, rfl⟩ | ⟨ho, rfl⟩ | ⟨ho, rfl⟩ | ⟨ho, rfl⟩ | ⟨ho, rfl⟩ | ⟨ho, rfl⟩ | ⟨ho, rfl⟩ |
    ⟨ho, rfl⟩ | ⟨ho, rfl⟩ := decode_cases h
  all_goals rw [ho] at hw hk ⊢
  · exact encode_of_fields w (by rw [ho]; rfl)
  · exact hw
  · exact hw
  · exact hw
  · exact hw
  · exact hw
  · exact ppnToPa_of_fields w (by rw [ho]; rfl)
  · exact hw
  · exact hk
  · exact hk

/-- Settles O4: each word is decoded. -/
theorem sampleWordsDecode : Obligations.SampleWordsDecode := by
  unfold Obligations.SampleWordsDecode
  decide

namespace Machine

theorem step_cons {s : State} {a : HostAction} {rest : List HostAction} (h : s.host = a :: rest) :
    step s = perform a (takeAction rest s) := by
  simp only [step, h]

/-- A word that decodes is run on the state without it. -/
theorem step_op {s : State} {w : OpWord} {rest : List HostAction} {i : Instr} (h : s.host = .op w :: rest)
    (hd : decode w = .ok i) : step s = exec i (takeAction rest s) := by
  rw [step_cons h, perform, runWord, hd]

/-- Settles O3: an OPID is reserved or assigned, and decodes so. -/
theorem reservedOpidsAloneAreRefused : Obligations.ReservedOpidsAloneAreRefused := by
  intro s w rest h
  rw [← OpWord.opid_toNat]
  refine ⟨fun hr => ⟨w.opid, rfl, ?reserved⟩, fun ha => ?assigned⟩
  case reserved => rw [step_cons h, perform, runWord, decode_reserved hr]; rfl
  case assigned =>
    obtain ⟨i, hi⟩ := decode_assigned ha
    exact ⟨i, hi, congrArg BitVec.toNat (decode_opid hi)⟩

/-- Settles O5: a pending word is taken off and run; `withFetchWord` puts the word first and leaves the rest. -/
theorem stepRunsTheDecodedOperation : Obligations.StepRunsTheDecodedOperation := by
  refine ⟨fun s w rest i h hd => step_op h hd, fun s nbits w i h => ?_⟩
  have hd : decode (tableWord nbits w) = .ok i := by
    unfold decodeTableWord at h
    split at h
    · simp_all
    · exact nomatch h
  exact step_op (s := s.withFetchWord nbits w) rfl hd

/-- Settles O6: `step` at an empty list. -/
theorem blockWaitsForTheHost : Obligations.BlockWaitsForTheHost := fun s h => by simp only [step, h]

end Machine

end Sys2Proof
end

section
/-! The canonical form (41_walker.md R131), the codec beside a walk (10_state.md R29), the host's accesses to memory
(20_memory.md R50, R52) and the pseudo-operations of 30_encoding.md R96. -/

namespace Sys2Proof.Machine

/-! ### The canonical form -/

/-- Settles O17: as numbers, the sign extension adds 2^64 - 2^39 to the low 39 bits from 2^38 on, and nothing below. -/
theorem canonicalIsSignExtension : Obligations.CanonicalIsSignExtension := by
  intro va
  have h := va.isLt
  have hlow : (va.extractLsb' 0 39).toNat = va.toNat % 2 ^ 39 := by
    rw [BitVec.extractLsb'_toNat, Nat.shiftRight_zero]
  have hmsb : (va.extractLsb' 0 39).msb = decide (2 ^ 38 ≤ va.toNat % 2 ^ 39) := by
    rw [BitVec.msb_eq_decide, hlow]
  rw [canonical_eq, decide_eq_true_iff, ← BitVec.toNat_inj, BitVec.toNat_signExtend, BitVec.toNat_setWidth, hlow, hmsb]
  by_cases hb : 2 ^ 38 ≤ va.toNat % 2 ^ 39
  · rw [decide_eq_true hb, if_pos rfl]
    omega
  · rw [decide_eq_false hb, if_neg Bool.false_ne_true]
    omega

/-! ### The codec beside a walk -/

/-- Every codec operation that completes has driven the codec's inputs and set the result. An encoded entry has `RSVD` 0,
and no assertion is raised (40_pte_codec.md R101, R107). -/
theorem exec_codec_eq_next {i : Instr} {s t : State} (hi : i.opid.toNat ≤ 7) (h : exec i s = .next t) :
    ∃ r c, resultOk r = true ∧ t = setResult r (setCodec c s) := by
  cases i with
  | encode ppn flags =>
    obtain hp | hp := Nat.lt_or_ge ppn.toNat (2 ^ 44)
    · rw [exec_encode_of_lt hp] at h
      injection h with h
      exact ⟨_, _, by simp [resultOk], h.symm⟩
    · rw [exec_encode_of_ge hp] at h
      exact nomatch h
  | paToPpn pa =>
    obtain hp | hp := Nat.lt_or_ge pa.toNat (2 ^ 56)
    · rw [exec_paToPpn_of_lt hp] at h
      injection h with h
      exact ⟨_, _, rfl, h.symm⟩
    · rw [exec_paToPpn_of_ge hp] at h
      exact nomatch h
  | decode raw => injection h with h; exact ⟨_, _, rfl, h.symm⟩
  | isEmpty raw => injection h with h; exact ⟨_, _, rfl, h.symm⟩
  | isBranch raw => injection h with h; exact ⟨_, _, rfl, h.symm⟩
  | isLeaf raw => injection h with h; exact ⟨_, _, rfl, h.symm⟩
  | ppnToPa ppn off => injection h with h; exact ⟨_, _, rfl, h.symm⟩
  | vaSplit va => injection h with h; exact ⟨_, _, rfl, h.symm⟩
  | walkNc va root => exact absurd hi (by simp [Instr.opid])
  | walkC va root => exact absurd hi (by simp [Instr.opid])

/-- Settles O18: a codec operation changes the codec's inputs and the result alone. -/
theorem codecUseNeverDisturbsAWalk : Obligations.CodecUseNeverDisturbsAWalk := by
  refine ⟨fun i s t hi h => ?_, fun c s => rfl⟩
  obtain ⟨r, c, -, rfl⟩ := exec_codec_eq_next hi h
  exact ⟨rfl, rfl, rfl, rfl, rfl, rfl, ⟨rfl, rfl⟩, rfl, rfl, rfl, rfl⟩

/-! ### Host accesses -/

theorem hostAccess_inside {pa : Pa} {n : Nat} (h : pa.toNat + n ≤ 2 ^ 56) (o : Out) : hostAccess pa n o = o :=
  if_pos (decide_eq_true h)

theorem hostAccess_outside {pa : Pa} {n : Nat} (h : 2 ^ 56 < pa.toNat + n) (o : Out) :
    hostAccess pa n o = .fault .outsideAddressSpace :=
  if_neg fun hi => absurd (of_decide_eq_true hi) (by omega)

/-- Another agent's write changes memory and what is noted of a read. -/
theorem foreignWrite_only (m : Mem) (s : State) :
    foreignWrite m s = { s with mem := m, readSeen := (noteRead s).readSeen } := by
  unfold foreignWrite noteRead
  split <;> rfl

/-- Settles O20: the bytes after the write, and the reads of them, by the laws of memory. -/
theorem hostWordsAreLittleEndian : Obligations.HostWordsAreLittleEndian := by
  refine ⟨fun s pa v hm hpa => ?word, fun s pa b hm => ?byte⟩
  case word =>
    refine ⟨foreignWrite (memSetWord s.mem pa.toNat v) s, hostAccess_inside hpa _, foreignWrite_only _ s, fun a => ?bytes,
      ?readWord, fun i hi pb hpb => ?readByte⟩
    case bytes => rw [foreignWrite_mem, memByte_memSetWord hm v hpa, wordByte_eq]
    case readWord =>
      refine (hostAccess_inside hpa _).trans ?_
      rw [foreignWrite_mem, memWord_memSetWord_same hm v hpa]
      rfl
    case readByte =>
      refine (hostAccess_inside (by omega) _).trans ?_
      rw [foreignWrite_mem, memByte_memSetWord hm v hpa, if_pos (by omega), wordByte_eq, hpb, Nat.add_sub_cancel_left]
      rfl
  case byte =>
    exact ⟨foreignWrite (memSetByte s.mem pa.toNat b) s, hostAccess_inside pa.isLt _, foreignWrite_only _ s,
      memByte_memSetByte hm _ _⟩

/-- Settles O21: both accesses are checked against the end of the space. -/
theorem hostAccessPastTheEndFaults : Obligations.HostAccessPastTheEndFaults := fun _ _ _ h =>
  ⟨hostAccess_outside h _, hostAccess_outside h _⟩

/-! ### The allocator's script -/

/-- Settles O57: `nextAnswer` by what the allocator holds. -/
theorem allocatorAnswersInOrder : Obligations.AllocatorAnswersInOrder :=
  ⟨fun _ _ => rfl, fun s a l h => by simp only [nextAnswer, h], fun _ h => ⟨_, nextAnswer_free h⟩⟩

/-! ### `LEAF.SET` -/

section
variable {s t : State} {va : Word} {root : Ppn} {r : Response}

/-- `LEAF.SET` whose walk reports `OK` goes on with its leaf. -/
theorem hostLeafSet_ok (h : exec (.walkC va root) s = .next t) (hr : t.result = .walk r) (hs : r.status = 0)
    (pa : Word) (flags : Flags) : hostLeafSet va root pa flags s = encodeLeaf r pa flags t := by
  rw [hostLeafSet, h, andThen_next]
  simp only [hr]
  exact if_pos hs

/-- `LEAF.SET` whose walk reports another status is that walk. -/
theorem hostLeafSet_not_ok (h : exec (.walkC va root) s = .next t) (hr : t.result = .walk r) (hs : r.status ≠ 0)
    (pa : Word) (flags : Flags) : hostLeafSet va root pa flags s = .next t := by
  rw [hostLeafSet, h, andThen_next]
  simp only [hr]
  exact if_neg hs

/-- `LEAF.SET` stops where its walk stops. -/
theorem hostLeafSet_fault {f : Fault} (h : exec (.walkC va root) s = .fault f) (pa : Word) (flags : Flags) :
    hostLeafSet va root pa flags s = .fault f := by
  rw [hostLeafSet, h, andThen_fault]

end

/-- Settles O58: `LEAF.SET` by the outcome of its walk; out of range it stops at `PA_TO_PPN`. -/
theorem leafSetEndsWhereAPartDoes : Obligations.LeafSetEndsWhereAPartDoes := by
  refine fun s va root pa flags => ⟨fun t r h hr hs => hostLeafSet_not_ok h hr hs pa flags, fun t r h hr hs hpa => ?_,
    fun f h => hostLeafSet_fault h pa flags⟩
  refine (hostLeafSet_ok h hr hs pa flags).trans ?_
  rw [encodeLeaf, exec_paToPpn_of_ge hpa, andThen_fault]

/-! ### The state after reset -/

/-- Settles O50: each output at the reset state. -/
theorem resetStateIsIdle : Obligations.ResetStateIsIdle := by
  unfold Obligations.ResetStateIsIdle
  decide

/-- Settles O53: each clause at the reset state. -/
theorem invariantHoldsAtReset : Obligations.InvariantHoldsAtReset where
  walker := by decide
  mem := by decide
  late := by decide
  result := by decide
  waiting := by decide

end Sys2Proof.Machine
end

section
/-! Both walks as one loop of two turns (41_walker.md R133, R134), and the induction over it: what every turn keeps holds
at the end of every walk. -/

namespace Sys2Proof.Machine

/-! ### The loop -/

/-- The walk operation with this create policy. -/
def walkOf : Bool → Word → Ppn → Instr
  | false => .walkNc
  | true => .walkC

/-- The loop of a walk: a turn at level 2, a turn at level 1, the answer `OK` (R133, R134). -/
def walkLoop (create : Bool) : State → Out := walkTurn create 2 1 (walkTurn create 1 0 respondOk)

theorem walkOf_of_or {i : Instr} {va : Word} {root : Ppn} (h : i = .walkNc va root ∨ i = .walkC va root) :
    ∃ create, i = walkOf create va root := by
  obtain rfl | rfl := h
  · exact ⟨false, rfl⟩
  · exact ⟨true, rfl⟩

theorem exec_walkOf (create : Bool) (va : Word) (root : Ppn) (s : State) : exec (walkOf create va root) s =
    andThen (awaitIdle s) fun b => checkCanonical (walkLoop create) (beginWalk va root create b) := by
  cases create <;> rfl

theorem exec_walkOf_of_idle {s : State} (h : s.walker.st = .idle) (create : Bool) (va : Word) (root : Ppn) :
    exec (walkOf create va root) s = checkCanonical (walkLoop create) (beginWalk va root create s) := by
  rw [exec_walkOf, awaitIdle_of_idle h, andThen_next]

/-- A walk that answers has waited for an idle walker and has then refused the address or run its loop. -/
theorem exec_walkOf_eq_next {create : Bool} {va : Word} {root : Ppn} {s t : State}
    (h : exec (walkOf create va root) s = .next t) : ∃ b, awaitIdle s = .next b ∧
      ((canonical va = true ∧ walkLoop create (beginWalk va root create b) = .next t) ∨
       (canonical va = false ∧ t = ended .invalidAddress 3 0 0 (beginWalk va root create b))) := by
  rw [exec_walkOf] at h
  obtain ⟨b, hb, h⟩ := andThen_eq_next h
  refine ⟨b, hb, ?_⟩
  simpa only [beginWalk_walker, acceptRequest_vaQ] using checkCanonical_eq_next h

/-! ### What the turns keep -/

/-- The levels of a turn and of the turn below it. -/
def adjacent (level below : Lvl) : Prop := (level = 2 ∧ below = 1) ∨ (level = 1 ∧ below = 0)

theorem adjacent_below_ne_two {level below : Lvl} (h : adjacent level below) : below ≠ 2 := by
  obtain ⟨-, rfl⟩ | ⟨-, rfl⟩ := h <;> decide

theorem adjacent_level {level below : Lvl} (h : adjacent level below) : level = 2 ∨ level = 1 :=
  h.imp And.left And.left

/-- Every turn of the loop leads from a state in `P level` to one in `P below`, or ends the walk in a state in `Q`. -/
structure TurnsKeep (create : Bool) (P : Lvl → State → Prop) (Q : State → Prop) : Prop where
  /-- The turn goes down through a branch. -/
  descends : ∀ {level below u}, adjacent level below → P level u →
    P below (descendInto (ptePpn (entryAt level u)) below (afterRead level u))
  /-- The turn makes a node at an entry read empty. -/
  makes : ∀ {level below u u' new}, create = true → adjacent level below → P level u →
    pteIsEmpty (entryAt level u) = true → nextAnswer (afterRead level u) = some (.ok new, u') →
    P below (afterCreate level below new (record (.alloc (.ok new)) u'))
  /-- The turn ends at the entry read. -/
  stops : ∀ {level below u x node idx}, adjacent level below → P level u →
    x = .blockedBySuperpage ∨ (create = false ∧ x = .notMapped) → Q (ended x level node idx (afterRead level u))
  /-- The turn ends with the allocator's refusal. -/
  refused : ∀ {level below u u' node idx}, create = true → adjacent level below → P level u →
    nextAnswer (afterRead level u) = some (.outOfMemory, u') →
    Q (ended .outOfMemory level node idx (record (.alloc .outOfMemory) u'))
  /-- Below both turns the walk has found its slot. -/
  finds : ∀ {u node idx}, P 0 u → Q (ended .ok 0 node idx u)

section
variable {create : Bool} {P : Lvl → State → Prop} {Q : State → Prop} (hk : TurnsKeep create P Q)
include hk

/-- One turn ends the walk in `Q`, or goes on below in `P`. -/
theorem walkTurn_keeps {level below : Lvl} {k : State → Out} {s t : State} (ha : adjacent level below)
    (hs : P level s) (h : walkTurn create level below k s = .next t) : Q t ∨ ∃ u, P below u ∧ k u = .next t := by
  cases create with
  | false =>
    obtain ⟨-, ⟨-, h⟩ | ⟨-, rfl⟩ | ⟨-, rfl⟩⟩ := ncLevel_eq_next h
    · exact .inr ⟨_, hk.descends ha hs, h⟩
    · exact .inl (hk.stops ha hs (.inr ⟨rfl, rfl⟩))
    · exact .inl (hk.stops ha hs (.inl rfl))
  | true =>
    obtain ⟨-, ⟨-, h⟩ | ⟨he, h⟩ | ⟨-, rfl⟩⟩ := cLevel_eq_next h
    · exact .inr ⟨_, hk.descends ha hs, h⟩
    · obtain ⟨a, u', ha', ⟨rfl, rfl⟩ | ⟨new, rfl, -, -, h⟩⟩ := createNode_eq_next h
      · exact .inl (hk.refused rfl ha hs ha')
      · exact .inr ⟨_, hk.makes rfl ha hs he ha', h⟩
    · exact .inl (hk.stops ha hs (.inl rfl))

/-- The loop ends in `Q`. -/
theorem walkLoop_keeps {s t : State} (hs : P 2 s) (h : walkLoop create s = .next t) : Q t := by
  obtain h | ⟨u, hu, h⟩ := walkTurn_keeps hk (.inl ⟨rfl, rfl⟩) hs h
  · exact h
  obtain h | ⟨v, hv, h⟩ := walkTurn_keeps hk (.inr ⟨rfl, rfl⟩) hu h
  · exact h
  rw [respondOk_eq] at h
  injection h with h
  exact h ▸ hk.finds hv

end

/-! ### The response -/

/-- The statuses and levels with which the loop can end (30_encoding.md R88, R89). -/
def loopEndsWith (create : Bool) (x : Status) (level : Lvl) : Prop :=
  (x = .ok ∧ level = 0) ∨
  ((level = 2 ∨ level = 1) ∧
    (x = .blockedBySuperpage ∨ (create = false ∧ x = .notMapped) ∨ (create = true ∧ x = .outOfMemory)))

/-- `t` is the end of a walk with a status and a level that the loop can end with. -/
def endsLegally (create : Bool) (t : State) : Prop :=
  ∃ x level node idx u, t = ended x level node idx u ∧ loopEndsWith create x level

theorem turns_end_legally (create : Bool) : TurnsKeep create (fun _ _ => True) (endsLegally create) where
  descends _ _ := trivial
  makes _ _ _ _ _ := trivial
  stops ha _ hx := ⟨_, _, _, _, _, rfl, .inr ⟨adjacent_level ha, hx.imp_right .inl⟩⟩
  refused hc ha _ _ := ⟨_, _, _, _, _, rfl, .inr ⟨adjacent_level ha, .inr (.inr ⟨hc, rfl⟩)⟩⟩
  finds _ := ⟨_, _, _, _, _, rfl, .inl ⟨rfl, rfl⟩⟩

/-- Every walk that answers, from any state, has ended with a legal pairing of status and level. -/
theorem exec_walkOf_ends {create : Bool} {va : Word} {root : Ppn} {s t : State}
    (h : exec (walkOf create va root) s = .next t) : ∃ x level node idx u, t = ended x level node idx u ∧
      (loopEndsWith create x level ∨ (x = .invalidAddress ∧ level = 3 ∧ node = 0 ∧ idx = 0)) := by
  obtain ⟨b, -, ⟨-, h⟩ | ⟨-, h⟩⟩ := exec_walkOf_eq_next h
  · obtain ⟨x, level, node, idx, u, ht, hx⟩ := walkLoop_keeps (turns_end_legally create) trivial h
    exact ⟨x, level, node, idx, u, ht, .inl hx⟩
  · exact ⟨_, _, _, _, _, h, .inr ⟨rfl, rfl, rfl, rfl⟩⟩

/-- Settles O31: the pairings of `exec_walkOf_ends`, by status. -/
theorem walkResponsesAreLegal : Obligations.WalkResponsesAreLegal := by
  intro s t va root i hi h
  obtain ⟨create, rfl⟩ := walkOf_of_or hi
  obtain ⟨x, level, node, idx, u, rfl, hx⟩ := exec_walkOf_ends h
  refine ⟨rfl, _, rfl, rfl, ?_⟩
  obtain (⟨rfl, hl⟩ | ⟨hl, rfl | ⟨rfl, rfl⟩ | ⟨rfl, rfl⟩⟩) | ⟨rfl, hl, hn, hi⟩ := hx
  · exact .inl ⟨rfl, hl⟩
  · exact .inr (.inr (.inr (.inl ⟨rfl, hl⟩)))
  · exact .inr (.inr (.inl ⟨rfl, hl, rfl⟩))
  · exact .inr (.inr (.inr (.inr ⟨rfl, hl, rfl⟩)))
  · exact .inr (.inl ⟨rfl, hl, hn, hi⟩)

/-! ### The frame -/

/-- What a walk of `va` from the state `s` leaves alone and how it leaves the request registers and the inputs. -/
structure WalkFrame (create : Bool) (va : Word) (s u : State) : Prop where
  keeps : walkKeeps s u
  va : u.walker.vaQ = va
  create : u.walker.createQ = create
  pins : u.pins = .quiet
  waiting : u.reqWaiting = false

theorem walkFrame_beginWalk (create : Bool) (va : Word) (root : Ppn) (s : State) :
    WalkFrame create va s (beginWalk va root create s) := ⟨⟨rfl, rfl, rfl, rfl, rfl⟩, rfl, rfl, rfl, rfl⟩

/-- The frame rests on the fields it names alone. -/
theorem walkFrame_congr {create : Bool} {va : Word} {s u v : State} (h : WalkFrame create va s u) (hk : walkKeeps u v)
    (hv : v.walker.vaQ = u.walker.vaQ) (hc : v.walker.createQ = u.walker.createQ) (hp : v.pins = u.pins)
    (hw : v.reqWaiting = u.reqWaiting) : WalkFrame create va s v :=
  ⟨walkKeeps_trans h.keeps hk, hv.trans h.va, hc.trans h.create, hp.trans h.pins, hw.trans h.waiting⟩

/-- The allocator's answer keeps the frame. -/
theorem walkFrame_answer {create : Bool} {va : Word} {s u u' : State} {a : AllocAnswer} {level : Lvl}
    (h : WalkFrame create va s u) (ha : nextAnswer (afterRead level u) = some (a, u')) :
    WalkFrame create va s (record (.alloc a) u') := by
  rw [nextAnswer_only ha]
  exact walkFrame_congr h ⟨rfl, rfl, rfl, rfl, rfl⟩ rfl rfl rfl rfl

/-- The allocator's answer leaves what is noted of a read, which the read before it has emptied. -/
theorem nextAnswer_readSeen {u u' : State} {a : AllocAnswer} {level : Lvl}
    (ha : nextAnswer (afterRead level u) = some (a, u')) : u'.readSeen = [] := by
  rw [nextAnswer_only ha]
  rfl

/-- Every turn keeps the frame, and its read empties what was noted of one before. -/
theorem turns_keep_frame (create : Bool) (va : Word) (s : State) :
    TurnsKeep create (fun level u => WalkFrame create va s u ∧ (level = 2 ∨ u.readSeen = []))
      (fun t => WalkFrame create va s t ∧ t.readSeen = []) where
  descends := fun _ ⟨h, _⟩ => ⟨walkFrame_congr h ⟨rfl, rfl, rfl, rfl, rfl⟩ rfl rfl rfl rfl, .inr rfl⟩
  makes := fun _ _ ⟨h, _⟩ _ ha => ⟨walkFrame_congr (walkFrame_answer h ha) ⟨rfl, rfl, rfl, rfl, rfl⟩ rfl rfl rfl rfl,
    .inr (nextAnswer_readSeen ha :)⟩
  stops := fun _ ⟨h, _⟩ _ => ⟨walkFrame_congr h ⟨rfl, rfl, rfl, rfl, rfl⟩ rfl rfl rfl rfl, rfl⟩
  refused := fun _ _ ⟨h, _⟩ ha => ⟨walkFrame_congr (walkFrame_answer h ha) ⟨rfl, rfl, rfl, rfl, rfl⟩ rfl rfl rfl rfl,
    (nextAnswer_readSeen ha :)⟩
  finds := fun ⟨h, hr⟩ => ⟨walkFrame_congr h ⟨rfl, rfl, rfl, rfl, rfl⟩ rfl rfl rfl rfl, hr.resolve_left (by decide)⟩

/-- The frame of every walk that answers, from the state in which the walker was idle. -/
theorem exec_walkOf_frame {create : Bool} {va : Word} {root : Ppn} {s t : State}
    (h : exec (walkOf create va root) s = .next t) :
    ∃ b, awaitIdle s = .next b ∧ WalkFrame create va b t ∧ t.readSeen = if canonical va then [] else b.readSeen := by
  obtain ⟨b, hb, ⟨hc, h⟩ | ⟨hc, rfl⟩⟩ := exec_walkOf_eq_next h
  · obtain ⟨hf, hr⟩ := walkLoop_keeps (turns_keep_frame create va b) ⟨walkFrame_beginWalk create va root b, .inl rfl⟩ h
    exact ⟨b, hb, hf, by rw [hr, if_pos hc]⟩
  · exact ⟨b, hb, walkFrame_congr (walkFrame_beginWalk create va root b) ⟨rfl, rfl, rfl, rfl, rfl⟩ rfl rfl rfl rfl,
      by rw [hc]; rfl⟩

/-- The frame of a walk from an idle walker. -/
theorem exec_walkOf_frame_of_idle {create : Bool} {va : Word} {root : Ppn} {s t : State} (hs : s.walker.st = .idle)
    (h : exec (walkOf create va root) s = .next t) :
    WalkFrame create va s t ∧ t.readSeen = if canonical va then [] else s.readSeen := by
  obtain ⟨b, hb, hf⟩ := exec_walkOf_frame h
  rw [awaitIdle_of_idle hs] at hb
  injection hb with hb
  exact hb ▸ hf

/-- A property that holds after the handshake, and that the turns keep to the end and a refused address keeps, holds at
the end of every walk from an idle walker. -/
theorem exec_walkOf_keeps {create : Bool} {P : Lvl → State → Prop} {Q : State → Prop} (hk : TurnsKeep create P Q)
    {va : Word} {root : Ppn} {s t : State} (hs : s.walker.st = .idle) (hb : P 2 (beginWalk va root create s))
    (hr : Q (ended .invalidAddress 3 0 0 (beginWalk va root create s)))
    (h : exec (walkOf create va root) s = .next t) : Q t := by
  obtain ⟨b, ha, h⟩ := exec_walkOf_eq_next h
  rw [awaitIdle_of_idle hs] at ha
  injection ha with ha
  subst ha
  obtain ⟨-, h⟩ | ⟨-, rfl⟩ := h
  · exact walkLoop_keeps hk hb h
  · exact hr

/-! ### The no-create walk writes nothing -/

/-- What a no-create walk keeps beside its frame. -/
structure NcFrame (s u : State) : Prop where
  reads : onlyReads s u
  txns : ∀ x ∈ u.txns, isReadTxn x = true
  newQ : u.walker.newQ = s.walker.newQ
  ziQ : u.walker.ziQ = s.walker.ziQ

theorem ncFrame_afterRead {s u : State} (h : NcFrame s u) (level : Lvl) : NcFrame s (afterRead level u) where
  reads := onlyReads_afterRead h.reads level
  txns := by
    rw [afterRead_txns]
    exact List.forall_mem_cons.mpr ⟨rfl, h.txns⟩
  newQ := h.newQ
  ziQ := h.ziQ

theorem turns_keep_ncFrame (s : State) : TurnsKeep false (fun _ => NcFrame s) (NcFrame s) where
  descends := fun _ h => ⟨h.reads, (ncFrame_afterRead h _).txns, h.newQ, h.ziQ⟩
  makes := fun hc => nomatch hc
  stops := fun _ h _ => ⟨h.reads, (ncFrame_afterRead h _).txns, h.newQ, h.ziQ⟩
  refused := fun hc => nomatch hc
  finds := fun h => ⟨h.reads, h.txns, h.newQ, h.ziQ⟩

/-- Settles O23: no turn of the no-create loop leaves `NcFrame`. -/
theorem walkNcLeavesMemoryAndAllocator : Obligations.WalkNcLeavesMemoryAndAllocator := by
  intro s t va root hs h
  obtain ⟨hf, hr⟩ := exec_walkOf_frame_of_idle (create := false) hs h
  have hb : NcFrame s (beginWalk va root false s) :=
    ⟨onlyReads_beginWalk va root false s, fun x hx => absurd hx List.not_mem_nil, rfl, rfl⟩
  obtain ⟨⟨hm, ha, hk⟩, htx, hn, hz⟩ := exec_walkOf_keeps (turns_keep_ncFrame s) hs hb ⟨hb.reads, hb.txns, rfl, rfl⟩ h
  exact ⟨hm, fun a => by rw [hm], ha, hk, htx, hf.va, hf.create, hn, hz, hf.pins, hf.waiting, hr⟩

/-! ### What the create walk may write -/

/-- A byte of a frame given in these transactions, or of an entry read empty in them that is on the path of `va` (R136). -/
def mayWrite (va : Word) (root : Ppn) (l : List Txn) (a : Nat) : Prop :=
  (∃ f : Ppn, Txn.alloc (.ok f) ∈ l ∧ inFrame f a) ∨
  (∃ (pa : Pa) (raw : Word), Txn.read pa raw ∈ l ∧ pteIsEmpty raw = true ∧ inEntry pa a ∧
    (pa = entryPa root (vpnAt va 2) ∨ ∃ node : Ppn, pa = entryPa node (vpnAt va 1)))

theorem mayWrite_mono {va : Word} {root : Ppn} {l l' : List Txn} {a : Nat} (h : mayWrite va root l a) (hl : l ⊆ l') :
    mayWrite va root l' a := by
  obtain ⟨f, hf, ha⟩ | ⟨pa, raw, hr, he, ha, hp⟩ := h
  · exact .inl ⟨f, hl hf, ha⟩
  · exact .inr ⟨pa, raw, hl hr, he, ha, hp⟩

/-- The writes of a create walk so far: memory in its one form, and changed only where `mayWrite` says. -/
structure WritesOk (va : Word) (root : Ppn) (m : Mem) (u : State) : Prop where
  wf : memWf u.mem = true
  changed : ∀ a, memByte u.mem a ≠ memByte m a → mayWrite va root u.txns a

/-- A step that writes nothing and makes more transactions keeps the writes. -/
theorem writesOk_congr {va : Word} {root : Ppn} {m : Mem} {u v : State} (h : WritesOk va root m u) (hm : v.mem = u.mem)
    (hl : u.txns ⊆ v.txns) : WritesOk va root m v :=
  ⟨hm ▸ h.wf, fun a ha => mayWrite_mono (h.changed a (hm ▸ ha)) hl⟩

/-- The slot of a turn is the entry on the path at its level: at level 2 it is the root's. -/
def onPath (va : Word) (root : Ppn) (level : Lvl) (u : State) : Prop :=
  u.walker.vaQ = va ∧ (level = 2 → u.walker.nodeQ = root)

theorem onPath_slot {va : Word} {root : Ppn} {level below : Lvl} {u : State} (h : onPath va root level u)
    (ha : adjacent level below) : entryPa u.walker.nodeQ (vpn u.walker.vaQ level) = entryPa root (vpnAt va 2) ∨
      ∃ node, entryPa u.walker.nodeQ (vpn u.walker.vaQ level) = entryPa node (vpnAt va 1) := by
  obtain ⟨rfl, hn⟩ := h
  obtain ⟨rfl, -⟩ | ⟨rfl, -⟩ := ha
  · exact .inl (by rw [hn rfl]; rfl)
  · exact .inr ⟨_, rfl⟩

/-- The memory of a node made: the frame zeroed and the entry visited naming it. -/
theorem afterCreate_mem (level below : Lvl) (new : Ppn) (s : State) : (afterCreate level below new s).mem =
    grown s.mem s.walker.nodeQ (vpn s.walker.vaQ level) new := rfl

theorem memWf_grown {m : Mem} (h : memWf m = true) (node : Ppn) (idx : Idx) (new : Ppn) :
    memWf (grown m node idx new) = true :=
  memWf_memSetWord (memWf_memZeroFrame h new) _ (entryPa_inside node idx)

/-- Making a node keeps the writes in the frame given and the entry read empty. -/
theorem writesOk_makes {va : Word} {root : Ppn} {m : Mem} {level below : Lvl} {u u' : State} {new : Ppn}
    (h : WritesOk va root m u) (hp : onPath va root level u) (hl : adjacent level below)
    (he : pteIsEmpty (entryAt level u) = true) (ha : nextAnswer (afterRead level u) = some (.ok new, u')) :
    WritesOk va root m (afterCreate level below new (record (.alloc (.ok new)) u')) := by
  have htx := create_txns ha below new
  obtain ⟨hm, -, hw, -⟩ := nextAnswer_frame ha
  have hmem : (afterCreate level below new (record (.alloc (.ok new)) u')).mem =
      grown u.mem u.walker.nodeQ (vpn u.walker.vaQ level) new := by
    rw [afterCreate_mem, record_mem, record_walker, hm, hw]
    rfl
  refine ⟨hmem ▸ memWf_grown h.wf _ _ _, fun a hne => ?_⟩
  rw [hmem] at hne
  by_cases hf : inFrame new a
  · exact .inl ⟨new, by rw [htx]; simp, hf⟩
  by_cases hi : inEntry (entryPa u.walker.nodeQ (vpn u.walker.vaQ level)) a
  · exact .inr ⟨_, _, by rw [htx]; simp, he, hi, onPath_slot hp hl⟩
  rw [memByte_grown_other h.wf hf hi] at hne
  exact mayWrite_mono (h.changed a hne) (by rw [htx]; exact List.subset_append_right _ _)

theorem turns_keep_writesOk (va : Word) (root : Ppn) (m : Mem) :
    TurnsKeep true (fun level u => WritesOk va root m u ∧ onPath va root level u) (WritesOk va root m) where
  descends := fun hl ⟨h, hv, _⟩ => ⟨writesOk_congr h rfl (List.subset_cons_self _ _), hv,
    fun h2 => absurd h2 (adjacent_below_ne_two hl)⟩
  makes := fun _ hl ⟨h, hp⟩ he ha => by
    refine ⟨writesOk_makes h hp hl he ha, ?_, fun h2 => absurd h2 (adjacent_below_ne_two hl)⟩
    obtain ⟨-, -, hw, -⟩ := nextAnswer_frame ha
    exact (congrArg Walker.vaQ hw).trans hp.1
  stops := fun _ ⟨h, _⟩ _ => writesOk_congr h rfl (List.subset_cons_self _ _)
  refused := fun _ _ ⟨h, _⟩ ha => by
    obtain ⟨hm, htx, -⟩ := nextAnswer_frame ha
    refine writesOk_congr h hm ?_
    rw [ended_txns, answer_txns ha]
    exact List.subset_append_right _ _
  finds := fun ⟨h, _⟩ => writesOk_congr h rfl (List.Subset.refl _)

/-- Settles O28: every turn of the create loop keeps `WritesOk` and the frame. -/
theorem walkCWritesOnlyNewFramesAndEmptySlots : Obligations.WalkCWritesOnlyNewFramesAndEmptySlots := by
  intro s t va root hs hm h
  obtain ⟨hf, hr⟩ := exec_walkOf_frame_of_idle (create := true) hs h
  have hb : WritesOk va root s.mem (beginWalk va root true s) := ⟨hm, fun a ha => absurd rfl ha⟩
  have ht := exec_walkOf_keeps (turns_keep_writesOk va root s.mem) hs ⟨hb, rfl, fun _ => rfl⟩
    (writesOk_congr hb rfl (List.Subset.refl _)) h
  exact ⟨hf.keeps, hf.va, hf.create, hf.pins, hf.waiting, hr, ht.changed⟩

end Sys2Proof.Machine
end

section
/-! The create walk on the paths it can take (41_walker.md R134, R135): an existing path, a node made below a branch, both
nodes made. `LEAF.SET` on an empty root (95_test_vectors.md S3). -/

namespace Sys2Proof.Machine

/-! ### The end of a walk -/

theorem walkKeeps_ended {s u : State} (h : walkKeeps s u) (x : Status) (level : Lvl) (node : Ppn) (idx : Idx) :
    walkKeeps s (ended x level node idx u) := h

theorem allocatorSame_ended {s u : State} (h : allocatorSame s u) (x : Status) (level : Lvl) (node : Ppn) (idx : Idx) :
    allocatorSame s (ended x level node idx u) := h

/-- Below both turns the walk answers `OK` at the node it has come to. -/
theorem respondOk_of_walker {u : State} {node : Ppn} {va : Word} (hn : u.walker.nodeQ = node) (hv : u.walker.vaQ = va) :
    respondOk u = .next (ended .ok 0 node (vpnAt va 0) u) := by
  rw [respondOk_eq, hn, hv]

/-! ### An existing path -/

/-- Settles O24: both turns go down through a branch, each with its read. -/
theorem walkCOnAnExistingPath : Obligations.WalkCOnAnExistingPath := by
  intro s va root raw2 raw1 hs hc he2 hb2 he1 hb1
  have h2 := visits_two_of_entryIs root true he2
  have h1 := visits_one_of_entryIs root true he1
  obtain ⟨hm, ha, hk⟩ := onlyReads_ended (onlyReads_descendInto
    (onlyReads_afterRead (onlyReads_belowBranch va root true (ptePpn raw2) s) 1) (ptePpn raw1) 0)
    .ok 0 (ptePpn raw1) (vpnAt va 0)
  refine ⟨_, ?runs, ended_answered _ _ _ _ _, ?txns, hm, ha, hk⟩
  case runs =>
    rw [exec_walkC_canonical hs hc root, cLevel_branch_of_visits h2 hb2]
    exact (cLevel_branch_of_visits h1 hb1 0 respondOk).trans (respondOk_of_walker rfl rfl)
  case txns => exact (afterRead_txns_of_visits h1).trans (congrArg _ (afterRead_txns_of_visits h2))

/-! ### A node made -/

/-- Every byte once a node is made: the entry installed, zero in its frame, as before elsewhere. -/
theorem memByte_grown {m : Mem} (h : memWf m = true) (node : Ppn) (idx : Idx) (new : Ppn) (a : Nat) :
    memByte (grown m node idx new) a =
      if inEntry (entryPa node idx) a then
        BitVec.ofNat 8 ((new.toNat * 2 ^ 10 + 1) / 2 ^ (8 * (a - (entryPa node idx).toNat)))
      else if inFrame new a then 0 else memByte m a := by
  rw [grown, memByte_memSetWord (memWf_memZeroFrame h new) _ (entryPa_inside node idx), memByte_memZeroFrame h,
    wordByte_eq, branchEntry_toNat]

/-- An entry outside the new frame and other than the one installed is as before. -/
theorem memWord_grown_other {m : Mem} (h : memWf m = true) {node node' new : Ppn} {idx idx' : Idx} (hf : node' ≠ new)
    (hn : ¬(node = node' ∧ idx = idx')) :
    memWord (grown m node idx new) (entryPa node' idx').toNat = memWord m (entryPa node' idx').toNat :=
  (memWord_entry_other (memWf_memZeroFrame h new) _ hn).trans (memWord_zeroFrame_outside h idx' hf)

/-- The state of a turn from `c` that has made the node `new` and gone down into it, the allocator left as in `s'`. -/
def madeNode (level below : Lvl) (new : Ppn) (s' c : State) : State :=
  afterCreate level below new (record (.alloc (.ok new))
    { afterRead level c with allocScript := s'.allocScript, allocDraws := s'.allocDraws })

section
variable (level below : Lvl) (new : Ppn) (s' c : State)

theorem madeNode_allocator : allocatorSame s' (madeNode level below new s' c) := ⟨rfl, rfl⟩

theorem madeNode_keeps : walkKeeps c (madeNode level below new s' c) := ⟨rfl, rfl, rfl, rfl, rfl⟩

/-- A turn that has made a node stands before the node's entry at the level below, which is served. -/
theorem madeNode_visits {raw : Word} (hs : frameAdmitted c.platform new = true)
    (hm : memWord (madeNode level below new s' c).mem (entryPa new (vpn c.walker.vaQ below)).toNat = raw) :
    visits below (madeNode level below new s' c) new (vpn c.walker.vaQ below) raw :=
  ⟨rfl, rfl, admits_of_frameAdmitted hs _, hm⟩

end

/-- The transactions of a turn that makes a node, in order (R134, R135). -/
def makesNode (node : Ppn) (idx : Idx) (raw : Word) (new : Ppn) : List Txn :=
  [.read (entryPa node idx) raw, .alloc (.ok new)] ++
    (List.range 512).map (fun i => .write (entryPa new (BitVec.ofNat 9 i)) 0) ++
    [.write (entryPa node idx) (branchEntry new)]

section
variable {level : Lvl} {c : State} {node : Ppn} {idx : Idx} {raw : Word} (h : visits level c node idx raw)
include h

/-- A turn at an empty entry with an answer `Ok` makes the node and goes on there. -/
theorem cLevel_makes_of_visits {s s' : State} {new : Ppn} (he : pteIsEmpty raw = true) (hs : allocatorSame s c)
    (ha : nextAnswer s = some (.ok new, s')) (hf : frameAdmitted c.platform new = true) (below : Lvl)
    (k : State → Out) : cLevel level below k c = k (madeNode level below new s' c) := by
  obtain ⟨rfl, rfl, hserved, rfl⟩ := h
  obtain ⟨hscript, hdraws⟩ := hs
  exact (cLevel_empty hserved he).trans
    (createNode_granted (nextAnswer_congr (t := afterRead level c) ha hscript hdraws) hf hserved)

theorem madeNode_mem (below : Lvl) (new : Ppn) (s' : State) :
    (madeNode level below new s' c).mem = grown c.mem node idx new := by
  obtain ⟨rfl, rfl, -⟩ := h
  rfl

theorem madeNode_txns (below : Lvl) (new : Ppn) (s' : State) :
    (madeNode level below new s' c).txns.reverse = c.txns.reverse ++ makesNode node idx raw new := by
  obtain ⟨rfl, rfl, -, rfl⟩ := h
  have e : (madeNode level below new s' c).txns =
      .write (entryPa c.walker.nodeQ (vpn c.walker.vaQ level)) (branchEntry new) :: (zeroTxns new ++
        (.alloc (.ok new) :: .read (entryPa c.walker.nodeQ (vpn c.walker.vaQ level)) (entryAt level c) :: c.txns)) := rfl
  rw [e, makesNode, zeroTxns]
  simp only [List.reverse_cons, List.reverse_append, List.reverse_reverse, List.append_assoc, List.cons_append,
    List.nil_append]
  rfl

end

/-- Settles O26: the turn at level 2 goes down through the branch, the turn at level 1 makes the node. -/
theorem walkCCreatesTheLevelOneTarget : Obligations.WalkCCreatesTheLevelOneTarget := by
  intro s s1 va root f raw2 raw1 hs hm hc he2 hb he1 he ha hf
  have h2 := visits_two_of_entryIs root true he2
  have h1 := visits_one_of_entryIs root true he1
  obtain ⟨hm1, hal, hk⟩ := onlyReads_belowBranch va root true (ptePpn raw2) s
  refine ⟨ended .ok 0 f (vpnAt va 0) (madeNode 1 0 f s1 (belowBranch va root true (ptePpn raw2) s)), ?runs,
    ended_answered _ _ _ _ _, allocatorSame_ended (madeNode_allocator _ _ _ _ _) _ _ _ _,
    walkKeeps_ended (walkKeeps_trans hk (madeNode_keeps _ _ _ _ _)) _ _ _ _, ?txns, fun a => ?bytes⟩
  case runs =>
    rw [exec_walkC_canonical hs hc root, cLevel_branch_of_visits h2 hb]
    exact (cLevel_makes_of_visits h1 he hal ha hf 0 respondOk).trans (respondOk_of_walker rfl rfl)
  case txns =>
    have hb1 : (belowBranch va root true (ptePpn raw2) s).txns = [.read (entryPa root (vpnAt va 2)) raw2] :=
      afterRead_txns_of_visits h2
    rw [ended_txns, madeNode_txns h1, hb1]
    rfl
  case bytes => rw [ended_mem, madeNode_mem h1, hm1, memByte_grown hm]

/-! ### Both nodes made -/

/-- The memory once the nodes `f2` and `f1` have been made on the path of `va` (R134). -/
def grownBoth (m : Mem) (va : Word) (root f2 f1 : Ppn) : Mem :=
  grown (grown m root (vpnAt va 2) f2) f2 (vpnAt va 1) f1

section
variable {m : Mem} (hm : memWf m = true) (va : Word) {root f2 f1 : Ppn} (h21 : f1 ≠ f2)
include hm

theorem memWf_grownBoth : memWf (grownBoth m va root f2 f1) = true := memWf_grown (memWf_grown hm _ _ _) _ _ _

theorem memWord_grownBoth_one :
    memWord (grownBoth m va root f2 f1) (entryPa f2 (vpnAt va 1)).toNat = branchEntry f1 :=
  memWord_grown_slot (memWf_grown hm _ _ _)

theorem memWord_grownBoth_two (h2 : f2 ≠ root) (h1 : f1 ≠ root) :
    memWord (grownBoth m va root f2 f1) (entryPa root (vpnAt va 2)).toNat = branchEntry f2 :=
  (memWord_grown_other (memWf_grown hm _ _ _) h1.symm fun ⟨h, _⟩ => h2 h).trans (memWord_grown_slot hm)

end

/-- A create walk from an empty root entry with two answers `Ok` makes both nodes. -/
theorem exec_walkC_makes_both {s s2 s1 : State} {va : Word} {root f2 f1 : Ppn} {raw2 : Word}
    (hs : s.walker.st = .idle) (hm : memWf s.mem = true) (hc : canonical va = true)
    (he2 : entryIs s root (vpnAt va 2) raw2) (he : pteIsEmpty raw2 = true) (ha2 : nextAnswer s = some (.ok f2, s2))
    (ha1 : nextAnswer s2 = some (.ok f1, s1)) (hall : allAdmitted s) (hroot : f2 ≠ root) :
    ∃ t, exec (.walkC va root) s = .next t ∧ answered t .ok 0 f1 (vpnAt va 0) ∧ allocatorSame s1 t ∧ walkKeeps s t ∧
      t.txns.reverse = makesNode root (vpnAt va 2) raw2 f2 ++ makesNode f2 (vpnAt va 1) 0 f1 ∧
      t.mem = grownBoth s.mem va root f2 f1 := by
  obtain ⟨-, hal, hk⟩ := onlyReads_beginWalk va root true s
  have h2 := visits_two_of_entryIs root true he2
  have hm2 := madeNode_mem h2 1 f2 s2
  have h1 : visits 1 (madeNode 2 1 f2 s2 (beginWalk va root true s)) f2 (vpnAt va 1) 0 :=
    madeNode_visits 2 1 f2 s2 _ (frameAdmitted_of_all hall f2) (hm2 ▸ memWord_grown_new hm hroot _)
  refine ⟨ended .ok 0 f1 (vpnAt va 0) (madeNode 1 0 f1 s1 (madeNode 2 1 f2 s2 (beginWalk va root true s))), ?runs,
    ended_answered _ _ _ _ _, allocatorSame_ended (madeNode_allocator _ _ _ _ _) _ _ _ _,
    walkKeeps_ended (walkKeeps_trans hk (walkKeeps_trans (madeNode_keeps _ _ _ _ _) (madeNode_keeps _ _ _ _ _)))
      _ _ _ _, ?txns, ?mem⟩
  case runs =>
    rw [exec_walkC_canonical hs hc root,
      cLevel_makes_of_visits h2 he hal ha2 (frameAdmitted_of_all hall f2)]
    exact (cLevel_makes_of_visits h1 (by decide) (madeNode_allocator _ _ _ _ _) ha1 (frameAdmitted_of_all hall f1) 0
      respondOk).trans (respondOk_of_walker rfl rfl)
  case txns =>
    rw [ended_txns, madeNode_txns h1, madeNode_txns h2]
    rfl
  case mem =>
    rw [ended_mem, madeNode_mem h1, hm2]
    rfl

/-- Settles O25: `exec_walkC_makes_both`, its transactions written out and its memory byte by byte. -/
theorem walkCCreatesBothNodes : Obligations.WalkCCreatesBothNodes := by
  intro s s2 s1 va root f2 f1 raw2 hs hm hc he2 he ha2 ha1 hall hroot
  obtain ⟨t, ht, hans, hal, hk, htx, hmem⟩ := exec_walkC_makes_both hs hm hc he2 he ha2 ha1 hall hroot
  refine ⟨t, ht, hans, hal, hk, ?txns, fun a => ?bytes⟩
  case txns =>
    rw [htx, makesNode, makesNode]
    simp only [List.append_assoc, List.cons_append, List.nil_append]
  case bytes => rw [hmem, grownBoth, memByte_grown (memWf_grown hm _ _ _), memByte_grown hm]

/-! ### `LEAF.SET` -/

/-- The end of `LEAF.SET` at an address in range: the encoded leaf is written to the slot. -/
theorem encodeLeaf_of_lt {r : Response} {pa : Word} (hpa : pa.toNat < 2 ^ 56) (hr : r.slotPa.toNat + 8 ≤ 2 ^ 56)
    (flags : Flags) (t : State) : ∃ u, encodeLeaf r pa flags t = .next u ∧ u.walker = t.walker ∧
      u.platform = t.platform ∧ u.mem = memSetWord t.mem r.slotPa.toNat (pteEncode (paPpn pa) flags) := by
  have hp : ((paPpn pa).setWidth 64).toNat < 2 ^ 44 := by
    rw [BitVec.toNat_setWidth_of_le (show 44 ≤ 64 by decide)]
    exact (paPpn pa).isLt
  rw [encodeLeaf, exec_paToPpn_of_lt hpa, andThen_next]
  simp only [setResult_result]
  rw [exec_encode_of_lt hp, andThen_next, encPpnLow_setWidth, writeLeaf]
  simp only [setResult_result]
  rw [hostWrite, hostAccess_inside hr]
  refine ⟨_, rfl, ?_, ?_, rfl⟩
  · simp
  · simp

/-- Settles O37: the walk of `LEAF.SET` makes both nodes, the leaf is written to the slot below them, and the second walk
reads the two branches. -/
theorem leafSetThenWalkFindsTheLeaf : Obligations.LeafSetThenWalkFindsTheLeaf := by
  intro s s2 s1 va va' root f2 f1 pa flags hs hm hc hva hempty hall ha2 ha1 h2r h1r h12 hpa
  obtain ⟨t, ht, ⟨hti, htr⟩, -, ⟨-, htp, -⟩, -, htm⟩ :=
    exec_walkC_makes_both hs hm hc ⟨hall _, hempty _⟩ (by decide) ha2 ha1 hall h2r
  obtain ⟨u, hu, huw, hup, hum⟩ := encodeLeaf_of_lt (r := ⟨statusCode .ok, 0, f1, vpnAt va 0, entryPa f1 (vpnAt va 0)⟩)
    hpa (entryPa_inside _ _) flags t
  have hwf : memWf t.mem = true := htm ▸ memWf_grownBoth hm va
  have hout : ∀ (node : Ppn) (idx : Idx), f1 ≠ node →
      memWord u.mem (entryPa node idx).toNat = memWord t.mem (entryPa node idx).toNat := fun node idx hn => by
    rw [hum]
    exact memWord_entry_other hwf _ fun ⟨h, _⟩ => hn h
  have hadm : ∀ a, admits u.platform a = true := fun a => by rw [hup, htp]; exact hall a
  have he2 : entryIs u root (vpnAt va' 2) (branchEntry f2) := by
    refine ⟨hadm _, ?_⟩
    rw [vpnAt_congr hva, hout root _ h1r, htm]
    exact memWord_grownBoth_two hm va h2r h1r
  have he1 : entryIs u (ptePpn (branchEntry f2)) (vpnAt va' 1) (branchEntry f1) := by
    refine ⟨hadm _, ?_⟩
    rw [ptePpn_branchEntry, vpnAt_congr hva, hout f2 _ h12, htm]
    exact memWord_grownBoth_one hm va
  obtain ⟨-, hwalk⟩ := walkNcFollowsItsPseudocode u va' root (by rw [huw]; exact hti)
  obtain ⟨-, -, hbranch⟩ := hwalk ((canonical_congr hva).trans hc) _ he2
  obtain ⟨v, hv, -, hvm, -, -, -, -, hok⟩ := hbranch (branchEntry_isBranch f2) _ he1
  have hans := hok (branchEntry_isBranch f1)
  rw [ptePpn_branchEntry, vpnAt_congr hva] at hans
  refine ⟨u, v, _, (hostLeafSet_ok ht htr rfl pa flags).trans hu, hv, hans, exec_decode _ v, ?_⟩
  rw [setResult_result, hvm, hum, memWord_entry_same hwf, ptePpn_pteEncode, pteFlags_pteEncode]
  rfl

end Sys2Proof.Machine
end

section
/-! Walks that get no answer (20_memory.md R57), and walks of two addresses of one page (41_walker.md R131). -/

namespace Sys2Proof.Machine

/-! ### The first entry not served -/

/-- Both walks stop at an entry that the memory does not serve. -/
theorem walkTurn_unserved {level : Lvl} {s : State} (h : ¬entryServed level s) (create : Bool) (below : Lvl)
    (k : State → Out) : walkTurn create level below k s = .fault .memNeverAnswers := by
  cases create
  · rw [walkTurn, ncLevel, readEntry_unserved h]
  · rw [walkTurn, cLevel, readEntry_unserved h]

/-- On a canonical address an idle walker runs the loop. -/
theorem exec_walkOf_canonical {s : State} {va : Word} (hs : s.walker.st = .idle) (hc : canonical va = true)
    (create : Bool) (root : Ppn) :
    exec (walkOf create va root) s = walkLoop create (beginWalk va root create s) := by
  rw [exec_walkOf_of_idle hs]
  exact checkCanonical_pos (s := beginWalk va root create s) hc

/-- On any other an idle walker refuses the address. -/
theorem exec_walkOf_noncanonical {s : State} {va : Word} (hs : s.walker.st = .idle) (hc : canonical va = false)
    (create : Bool) (root : Ppn) :
    exec (walkOf create va root) s = .next (ended .invalidAddress 3 0 0 (beginWalk va root create s)) := by
  rw [exec_walkOf_of_idle hs]
  exact checkCanonical_neg (s := beginWalk va root create s) hc

/-- Settles O35: the turn at level 2 begins with that read. -/
theorem unadmittedEntryLeavesTheWalkStuck : Obligations.UnadmittedEntryLeavesTheWalkStuck := by
  intro s va root hs hc hu
  have h : ∀ create, exec (walkOf create va root) s = .fault .memNeverAnswers := fun create => by
    have hn : ¬entryServed 2 (beginWalk va root create s) := by
      rw [entryServed, Bool.not_eq_true]
      exact hu
    rw [exec_walkOf_canonical hs hc, walkLoop, walkTurn_unserved hn]
  exact ⟨h false, h true⟩

/-! ### Two addresses of one page -/

/-- The state with another address latched. -/
def withVa (va : Word) (s : State) : State := setWalker { s.walker with vaQ := va } s

/-- The address latched and `va` lie in one page. -/
def samePage (va : Word) (s : State) : Prop := s.walker.vaQ.toNat / 4096 = va.toNat / 4096

section
variable {va : Word} {s : State} (h : samePage va s) (level : Lvl)
include h

theorem withVa_vpn : vpn (withVa va s).walker.vaQ level = vpn s.walker.vaQ level := (vpnAt_congr h level.toNat).symm

theorem withVa_entryServed : entryServed level (withVa va s) ↔ entryServed level s := by
  rw [entryServed, withVa_vpn h]
  rfl

theorem withVa_entryAt : entryAt level (withVa va s) = entryAt level s := by
  rw [entryAt, withVa_vpn h]
  rfl

theorem withVa_afterRead : afterRead level (withVa va s) = withVa va (afterRead level s) := by
  rw [afterRead, withVa_vpn h]
  rfl

theorem withVa_afterCreate (below : Lvl) (new : Ppn) :
    afterCreate level below new (withVa va s) = withVa va (afterCreate level below new s) := by
  rw [afterCreate, withVa_vpn h]
  rfl

end

/-- The allocator does not look at the address. -/
theorem withVa_nextAnswer {s s' : State} {a : AllocAnswer} (h : nextAnswer s = some (a, s')) (va : Word) :
    nextAnswer (withVa va s) = some (a, withVa va s') := by
  rw [nextAnswer_congr (t := withVa va s) h rfl rfl, nextAnswer_only h]
  rfl

/-- `k` runs alike with another address of the page latched. -/
def ignoresOffset (va : Word) (k : State → Out) : Prop :=
  ∀ s t, samePage va s → k s = .next t → k (withVa va s) = .next (withVa va t)

theorem respondOk_ignoresOffset (va : Word) : ignoresOffset va respondOk := by
  intro s t hp h
  have e : vpnAt (withVa va s).walker.vaQ 0 = vpnAt s.walker.vaQ 0 := withVa_vpn hp 0
  rw [respondOk_eq] at h ⊢
  injection h with h
  rw [← h, e]
  rfl

section
variable {va : Word} {k : State → Out} (hk : ignoresOffset va k) (level below : Lvl)
include hk

theorem ncLevel_ignoresOffset : ignoresOffset va (ncLevel level below k) := by
  intro s t hp h
  obtain ⟨hs, h⟩ := ncLevel_eq_next h
  have hs' := (withVa_entryServed hp level).2 hs
  rw [← withVa_entryAt hp level] at h
  obtain ⟨hb, h⟩ | ⟨he, rfl⟩ | ⟨hl, rfl⟩ := h
  · rw [ncLevel_branch hs' hb, withVa_afterRead hp]
    exact hk (descendInto _ below (afterRead level s)) t hp h
  · rw [ncLevel_empty hs' he, withVa_afterRead hp, withVa_vpn hp]
    rfl
  · rw [ncLevel_leaf hs' hl, withVa_afterRead hp, withVa_vpn hp]
    rfl

theorem createNode_ignoresOffset : ignoresOffset va (createNode level below k) := by
  intro s t hp h
  obtain ⟨a, s', ha, h⟩ := createNode_eq_next h
  have ha' := withVa_nextAnswer ha va
  obtain ⟨rfl, rfl⟩ | ⟨new, rfl, hf, hs, h⟩ := h
  · rw [createNode_refused ha', withVa_vpn hp]
    rfl
  · obtain ⟨-, -, hw, -⟩ := nextAnswer_frame ha
    have hp' : samePage va (record (.alloc (.ok new)) s') := by
      rw [samePage, record_walker, hw]
      exact hp
    rw [createNode_granted ha' hf ((withVa_entryServed hp level).2 hs)]
    have e := withVa_afterCreate hp' level below new
    exact (congrArg k e).trans (hk _ _ hp' h)

theorem cLevel_ignoresOffset : ignoresOffset va (cLevel level below k) := by
  intro s t hp h
  obtain ⟨hs, h⟩ := cLevel_eq_next h
  have hs' := (withVa_entryServed hp level).2 hs
  rw [← withVa_entryAt hp level] at h
  obtain ⟨hb, h⟩ | ⟨he, h⟩ | ⟨hl, rfl⟩ := h
  · rw [cLevel_branch hs' hb, withVa_afterRead hp]
    exact hk (descendInto _ below (afterRead level s)) t hp h
  · rw [cLevel_empty hs' he, withVa_afterRead hp]
    exact createNode_ignoresOffset hk level below _ _ hp h
  · rw [cLevel_leaf hs' hl, withVa_afterRead hp, withVa_vpn hp]
    rfl

theorem walkTurn_ignoresOffset (create : Bool) : ignoresOffset va (walkTurn create level below k) := by
  cases create
  · exact ncLevel_ignoresOffset hk level below
  · exact cLevel_ignoresOffset hk level below

end

theorem walkLoop_ignoresOffset (va : Word) (create : Bool) : ignoresOffset va (walkLoop create) :=
  walkTurn_ignoresOffset (walkTurn_ignoresOffset (respondOk_ignoresOffset va) 1 0 create) 2 1 create

/-- A walk from an idle walker runs alike for two addresses of one page. -/
theorem exec_walkOf_withVa {create : Bool} {s t : State} {va va' : Word} {root : Ppn} (hs : s.walker.st = .idle)
    (hp : va.toNat / 4096 = va'.toNat / 4096) (h : exec (walkOf create va root) s = .next t) :
    exec (walkOf create va' root) s = .next (withVa va' t) := by
  have hv := canonical_congr hp
  cases hc : canonical va
  · rw [exec_walkOf_noncanonical hs hc] at h
    injection h with h
    rw [exec_walkOf_noncanonical hs (hv.symm.trans hc), ← h]
    rfl
  · rw [exec_walkOf_canonical hs hc] at h
    rw [exec_walkOf_canonical hs (hv.symm.trans hc)]
    exact walkLoop_ignoresOffset va' create (beginWalk va root create s) t hp h

/-- Settles O34: each turn reads the same entry and does the same with it. -/
theorem walksIgnoreThePageOffset : Obligations.WalksIgnoreThePageOffset := fun _ _ _ _ _ hs hp =>
  ⟨exec_walkOf_withVa (create := false) hs hp, exec_walkOf_withVa (create := true) hs hp⟩

end Sys2Proof.Machine
end

section
/-! One edge of the clocked walker in the states that offer a request or await the memory's answer to a write, the edges
that stall, the protocol faults, and reset (41_walker.md section 3, 60_exceptions.md R189, 70_reset_and_hazards.md R200,
R201). -/

namespace Sys2Proof.Machine

/-! ### The transition of a state -/

section
variable {s : State}

theorem fsmEdge_rdReq (h : s.walker.st = .rdReq) : fsmEdge s = edgeRdReq s := by simp only [fsmEdge, h]

theorem fsmEdge_alReq (h : s.walker.st = .alReq) : fsmEdge s = edgeOffer s.pins.allocReqReady .alWait s := by
  simp only [fsmEdge, h]

theorem fsmEdge_zrReq (h : s.walker.st = .zrReq) : fsmEdge s = edgeOffer s.pins.memReqReady .zrWait s := by
  simp only [fsmEdge, h]

theorem fsmEdge_zrWait (h : s.walker.st = .zrWait) : fsmEdge s = edgeZrWait s := by simp only [fsmEdge, h]

theorem fsmEdge_inReq (h : s.walker.st = .inReq) : fsmEdge s = edgeOffer s.pins.memReqReady .inWait s := by
  simp only [fsmEdge, h]

theorem fsmEdge_inWait (h : s.walker.st = .inWait) : fsmEdge s = edgeInWait s := by simp only [fsmEdge, h]

theorem edgeRdReq_accepted (h : s.pins.memReqReady = true) :
    edgeRdReq s = .next (openRead (setWalker (goto .rdWait s.walker) s)) := if_pos h

theorem edgeZrWait_answer (h : s.pins.memRspValid = true) :
    edgeZrWait s = .next (setWalker (nextZero s.walker) (performWrite (zeroAddr s.walker) 0 s)) := if_pos h

theorem edgeInWait_answer (h : s.pins.memRspValid = true) :
    edgeInWait s = edgeDescend s.walker.newQ (performWrite (slotAddr s.walker) (branchEntry s.walker.newQ) s) := if_pos h

/-- A state whose condition does not hold waits (41_walker.md section 3). -/
theorem fsmEdge_stalled
    (h : (s.walker.st = .idle ∧ s.pins.reqValid = false) ∨ (s.walker.st = .rdReq ∧ s.pins.memReqReady = false) ∨
      (s.walker.st = .rdWait ∧ s.pins.memRspValid = false) ∨ (s.walker.st = .alReq ∧ s.pins.allocReqReady = false) ∨
      (s.walker.st = .alWait ∧ s.pins.allocRspValid = false) ∨ (s.walker.st = .zrReq ∧ s.pins.memReqReady = false) ∨
      (s.walker.st = .zrWait ∧ s.pins.memRspValid = false) ∨ (s.walker.st = .inReq ∧ s.pins.memReqReady = false) ∨
      (s.walker.st = .inWait ∧ s.pins.memRspValid = false) ∨ (s.walker.st = .rsp ∧ s.pins.rspReady = false)) :
    fsmEdge s = .next s := by
  obtain ⟨h, hp⟩ | ⟨h, hp⟩ | ⟨h, hp⟩ | ⟨h, hp⟩ | ⟨h, hp⟩ | ⟨h, hp⟩ | ⟨h, hp⟩ | ⟨h, hp⟩ | ⟨h, hp⟩ | ⟨h, hp⟩ := h
  · rw [fsmEdge_idle h, edgeIdle, hp]; rfl
  · rw [fsmEdge_rdReq h, edgeRdReq, hp]; rfl
  · rw [fsmEdge_rdWait h, edgeRdWait, hp]; rfl
  · rw [fsmEdge_alReq h, edgeOffer, hp]; rfl
  · rw [fsmEdge_alWait h, edgeAlWait, hp]; rfl
  · rw [fsmEdge_zrReq h, edgeOffer, hp]; rfl
  · rw [fsmEdge_zrWait h, edgeZrWait, hp]; rfl
  · rw [fsmEdge_inReq h, edgeOffer, hp]; rfl
  · rw [fsmEdge_inWait h, edgeInWait, hp]; rfl
  · rw [fsmEdge_rsp h, edgeRsp, hp]; rfl

end

/-! ### From the clock edge to the transition -/

section
variable {p : Pins} {s : State}

/-- Outside `IDLE`, an edge that answers no unserved request is the transition with the request held. -/
theorem clockEdge_busy (h : s.walker.st ≠ .idle) (hr : p.rst = false) (hb : protocolBroken p s = false)
    (hu : answersUnadmitted p s = false) : clockEdge p s = fsmEdge (setPins p p.reqValid s) := by
  rw [clockEdge_fsm hr hb hu, requestHeld_of_busy h]

/-- The same where no answer of the memory is awaited. -/
theorem clockEdge_busy_noMem (h : s.walker.st ≠ .idle) (hr : p.rst = false) (hb : protocolBroken p s = false)
    (ho : memOutstanding s.walker = false) : clockEdge p s = fsmEdge (setPins p p.reqValid s) :=
  clockEdge_busy h hr hb (answersUnadmitted_of_silent (memRsp_of_kept hb ho))

theorem clockEdge_rdReq (h : s.walker.st = .rdReq) (hr : p.rst = false) (hb : protocolBroken p s = false) :
    clockEdge p s = edgeRdReq (setPins p p.reqValid s) := by
  rw [clockEdge_busy_noMem (by simp [h]) hr hb (by simp [memOutstanding, h])]
  exact fsmEdge_rdReq h

theorem clockEdge_alReq (h : s.walker.st = .alReq) (hr : p.rst = false) (hb : protocolBroken p s = false) :
    clockEdge p s = edgeOffer p.allocReqReady .alWait (setPins p p.reqValid s) := by
  rw [clockEdge_busy_noMem (by simp [h]) hr hb (by simp [memOutstanding, h])]
  exact fsmEdge_alReq h

theorem clockEdge_zrReq (h : s.walker.st = .zrReq) (hr : p.rst = false) (hb : protocolBroken p s = false) :
    clockEdge p s = edgeOffer p.memReqReady .zrWait (setPins p p.reqValid s) := by
  rw [clockEdge_busy_noMem (by simp [h]) hr hb (by simp [memOutstanding, h])]
  exact fsmEdge_zrReq h

theorem clockEdge_inReq (h : s.walker.st = .inReq) (hr : p.rst = false) (hb : protocolBroken p s = false) :
    clockEdge p s = edgeOffer p.memReqReady .inWait (setPins p p.reqValid s) := by
  rw [clockEdge_busy_noMem (by simp [h]) hr hb (by simp [memOutstanding, h])]
  exact fsmEdge_inReq h

theorem answersUnadmitted_of_admits {a : Pa} (hq : requestAddr s.walker = a) (ha : admits s.platform a = true) :
    answersUnadmitted p s = false := by
  rw [answersUnadmitted, hq, ha, Bool.not_true, Bool.and_false]

theorem clockEdge_rdWait (h : s.walker.st = .rdWait) (hr : p.rst = false) (hb : protocolBroken p s = false)
    (ha : admits s.platform (slotAddr s.walker) = true) :
    clockEdge p s = edgeRdWait (setPins p p.reqValid s) := by
  rw [clockEdge_busy (by simp [h]) hr hb (answersUnadmitted_of_admits (by rw [requestAddr, h]) ha)]
  exact fsmEdge_rdWait h

theorem clockEdge_zrWait (h : s.walker.st = .zrWait) (hr : p.rst = false) (hb : protocolBroken p s = false)
    (ha : admits s.platform (zeroAddr s.walker) = true) :
    clockEdge p s = edgeZrWait (setPins p p.reqValid s) := by
  rw [clockEdge_busy (by simp [h]) hr hb (answersUnadmitted_of_admits (by rw [requestAddr, h]) ha)]
  exact fsmEdge_zrWait h

theorem clockEdge_inWait (h : s.walker.st = .inWait) (hr : p.rst = false) (hb : protocolBroken p s = false)
    (ha : admits s.platform (slotAddr s.walker) = true) :
    clockEdge p s = edgeInWait (setPins p p.reqValid s) := by
  rw [clockEdge_busy (by simp [h]) hr hb (answersUnadmitted_of_admits (by rw [requestAddr, h]) ha)]
  exact fsmEdge_inWait h

end

/-- Settles O39: `RD_REQ` and `AL_REQ` at an edge that accepts. -/
theorem acceptedRequestsAreAwaited : Obligations.AcceptedRequestsAreAwaited := by
  intro p s hr hpr hb
  refine ⟨fun hs => ⟨?readOffer, fun ha => ?readAccepted⟩, fun hs => ⟨allocReqValid_iff.mpr ⟨hs, hr⟩, fun ha => ?alloc⟩⟩
  case readOffer =>
    exact (memReq_of_valid (memReqValid_iff.mpr ⟨.inl hs, hr⟩)).trans (requestOf_rdReq hs)
  case readAccepted => exact (clockEdge_rdReq hs hpr hb).trans (edgeRdReq_accepted (s := setPins p p.reqValid s) ha)
  case alloc => exact (clockEdge_alReq hs hpr hb).trans (if_pos ha)

/-- Settles O45: a stalled edge brings no answer of the memory, and its transition waits. -/
theorem stalledEdgesChangeNothing : Obligations.StalledEdgesChangeNothing := by
  intro p s hr hb h
  have hv : p.memRspValid = false := by
    cases ho : memOutstanding s.walker
    · exact memRsp_of_kept hb ho
    · have hw : s.walker.st = .rdWait ∨ s.walker.st = .zrWait ∨ s.walker.st = .inWait := by
        simpa [memOutstanding, or_assoc] using ho
      obtain hs | hs | hs := hw <;> simpa [hs] using h
  exact ⟨requestHeld p s, (clockEdge_fsm hr hb (answersUnadmitted_of_silent hv)).trans
    (fsmEdge_stalled (s := setPins p (requestHeld p s) s) h)⟩

/-! ### Writing a new node -/

/-- The zero write counted: on to the install after the 512th, else to the next (R146). -/
theorem nextZero_eq {w : Walker} (h : w.ziQ.toNat < 512) :
    nextZero w = { w with ziQ := w.ziQ + 1, st := if w.ziQ.toNat = 511 then .inReq else .zrReq } := by
  by_cases hl : w.ziQ.toNat = 511
  · have he : w.ziQ + 1 = 512 := by
      apply BitVec.eq_of_toNat_eq
      rw [BitVec.toNat_add, hl]
      rfl
    rw [nextZero, if_pos he, if_pos hl]
    rfl
  · rw [(nextZero_of_lt (by omega)).1, if_neg hl]
    rfl

/-- Settles O42: the offer and the count of a zero write. -/
theorem zeroFillCountsToTheInstall : Obligations.ZeroFillCountsToTheInstall := by
  intro p s hr hpr hb hz slot
  have hslot : zeroAddr s.walker = slot := zeroAddr_eq_setWidth s.walker
  refine ⟨hslot ▸ zeroAddr_toNat hz, fun hs => ⟨?offer, fun ha => ?accepted⟩,
    fun hs => ⟨silent_of_st (.inr (.inr (.inr (.inl hs)))), fun hv ha => ?written⟩⟩
  case offer => rw [memReq_of_valid (memReqValid_iff.mpr ⟨.inr (.inl hs), hr⟩), requestOf_zrReq hs, hslot]
  case accepted => exact (clockEdge_zrReq hs hpr hb).trans (if_pos ha)
  case written =>
    rw [clockEdge_zrWait hs hpr hb (hslot ▸ ha), edgeZrWait_answer hv, setPins_walker, hslot, nextZero_eq hz]
    rfl

/-- Settles O43: the offer of the install, and the descent once it is written. -/
theorem installWritesTheBranchAndDescends : Obligations.InstallWritesTheBranchAndDescends := by
  intro p s hr hpr hb hl slot
  refine ⟨branchEntry s.walker.newQ, branchEntry_toNat _, fun hs => ⟨?offer, fun ha => ?accepted⟩,
    fun hs => ⟨silent_of_st (.inr (.inr (.inr (.inr hs)))), fun hv ha => ?written⟩⟩
  case offer => exact (memReq_of_valid (memReqValid_iff.mpr ⟨.inr (.inr hs), hr⟩)).trans (requestOf_inReq hs)
  case accepted => exact (clockEdge_inReq hs hpr hb).trans (if_pos ha)
  case written =>
    rw [clockEdge_inWait hs hpr hb ha, edgeInWait_answer hv]
    obtain h2 | h1 := hl
    · rw [if_pos h2]
      exact edgeDescend_two (s := performWrite slot _ (setPins p p.reqValid s)) h2 _
    · rw [if_neg (by rw [h1]; decide)]
      exact edgeDescend_one (s := performWrite slot _ (setPins p p.reqValid s)) h1 _

/-! ### Protocol faults -/

/-- The fault is raised exactly where the protocol is broken. -/
theorem clockEdge_eq_protocol_iff (p : Pins) (s : State) :
    clockEdge p s = .fault .protocol ↔ protocolBroken p s = true := by
  refine ⟨fun h => ?_, fun h => ?_⟩
  · by_contra hb
    rw [Bool.not_eq_true] at hb
    obtain ⟨hm, -⟩ := Bool.or_eq_false_iff.mp hb
    rw [clockEdge_own hb, ownEdge, hm, if_neg Bool.false_ne_true] at h
    split at h
    · exact nomatch h
    · split at h
      · exact nomatch h
      · exact fsmEdge_ne_protocol _ h
  · rw [clockEdge]
    split
    case isTrue => rfl
    case isFalse hl =>
      rw [ownEdge, if_pos ((Bool.or_eq_true_iff.mp h).resolve_right hl)]

theorem lateResponse_iff (p : Pins) (s : State) :
    lateResponse p s = true ↔ p.memRspValid = true ∧ ∃ r ∈ s.lateReqs, admits s.platform r.addr = true := by
  simp [lateResponse]

theorem memOutstanding_eq_false_iff (w : Walker) :
    memOutstanding w = false ↔ w.st ≠ .rdWait ∧ w.st ≠ .zrWait ∧ w.st ≠ .inWait := by
  simp [memOutstanding, and_assoc]

theorem portMisused_iff (p : Pins) (s : State) : portMisused p s = true ↔
    (p.memRspValid = true ∧ memOutstanding s.walker = false) ∨ (p.allocRspValid = true ∧ s.walker.st ≠ .alWait) ∨
    (s.reqWaiting = true ∧ p.reqValid = true ∧
      ¬(p.reqVa = s.pins.reqVa ∧ p.reqRootPpn = s.pins.reqRootPpn ∧ p.reqCreate = s.pins.reqCreate)) := by
  simp [portMisused, requestChanged, or_assoc, and_assoc, imp_iff_not_or]

/-- Settles O46: the ways to break the protocol, the two of a memory response put together. -/
theorem protocolFaultsAreExactlyTheThree : Obligations.ProtocolFaultsAreExactlyTheThree := by
  intro p s
  rw [clockEdge_eq_protocol_iff, protocolBroken, Bool.or_eq_true, portMisused_iff, lateResponse_iff,
    memOutstanding_eq_false_iff, and_or_left, or_right_comm]

/-! ### Reset -/

/-- A request in flight at a reset leaves all but memory, the late requests and the transactions. -/
theorem settlePending_only (s : State) :
    ∃ m l x, settlePending s = { s with mem := m, lateReqs := l, txns := x } := by
  obtain h | ⟨node, idx, v, h⟩ | ⟨we, node, idx, v, -, h⟩ := settlePending_cases s
  · exact ⟨_, _, _, h⟩
  · exact ⟨_, _, _, h⟩
  · exact ⟨_, _, _, h⟩

/-- So does a reset edge, the walker's registers and their counter aside. -/
theorem resetEdge_only (s : State) : ∃ m l x, resetEdge s = { s with
    walker := walkerAfterReset s.resetDraws, mem := m, lateReqs := l, txns := x, resetDraws := s.resetDraws + 1 } := by
  obtain ⟨m, l, x, h⟩ := settlePending_only s
  exact ⟨m, l, x, by rw [resetEdge, h]; rfl⟩

/-- Settles O51: the reset edge by `resetEdge_only`, the edge after it in `IDLE`. -/
theorem resetEdgeReachesIdle : Obligations.ResetEdgeReachesIdle := by
  intro p s hr hb hu
  obtain ⟨m, l, x, h⟩ := resetEdge_only (setPins p (requestHeld p s) s)
  refine ⟨_, (clockEdge_rst hr hb hu).trans (congrArg _ h), rfl, ?_, rfl, rfl, rfl, rfl, rfl, rfl, ⟨rfl, rfl⟩, rfl,
    fun q hq hv hbq => ?_⟩
  · simp [reqReady, hr]
  · refine ⟨_, (clockEdge_idle rfl hq hbq).trans (if_neg (by simp [hv])), reqReady_iff.mpr ⟨rfl, hq⟩⟩

/-- Without an answer at the reset edge a request in flight is put among the late ones (R201). -/
theorem resetEdge_silent {s : State} (hv : s.pins.memRspValid = false) : (resetEdge s).mem = s.mem ∧
    (resetEdge s).lateReqs = s.lateReqs ++ (pendingRequest s.walker).toList := by
  simp only [resetEdge, settlePending]
  cases h : pendingRequest s.walker with
  | none => simp
  | some r => simp [hv]

theorem pendingRequest_none {w : Walker} (h : memOutstanding w = false) : pendingRequest w = none := by
  rw [pendingRequest, h]
  rfl

theorem pendingRequest_rdWait {w : Walker} (h : w.st = .rdWait) : pendingRequest w = some ⟨false, slotAddr w, 0⟩ := by
  simp only [pendingRequest, memOutstanding, requestOf, h]
  rfl

theorem pendingRequest_zrWait {w : Walker} (h : w.st = .zrWait) : pendingRequest w = some ⟨true, zeroAddr w, 0⟩ := by
  simp only [pendingRequest, memOutstanding, requestOf, h]
  rfl

theorem pendingRequest_inWait {w : Walker} (h : w.st = .inWait) :
    pendingRequest w = some ⟨true, slotAddr w, branchEntry w.newQ⟩ := by
  simp only [pendingRequest, memOutstanding, requestOf, h]
  rfl

section
variable {s : State} {r : MemReq} {l : List MemReq} (h : s.lateReqs = r :: l)
include h

/-- A late request answered and not performed. -/
theorem settleLate_dropped {b : Bool} (hn : (b && r.we && admits s.platform r.addr) = false) :
    settleLate b s = { s with lateReqs := l } := by
  simp [settleLate, h, hn]

/-- A late write performed is a write of another agent. -/
theorem settleLate_performed (hw : r.we = true) (ha : admits s.platform r.addr = true) :
    settleLate true s = foreignWrite (memSetWord s.mem r.addr.toNat r.wdata) { s with lateReqs := l } := by
  simp [settleLate, h, hw, ha]

end

/-- What is noted of a read does not rest on the late requests. -/
theorem noteRead_late (s : State) (l : List MemReq) :
    (noteRead { s with lateReqs := l }).readSeen = (noteRead s).readSeen := by
  by_cases h : s.walker.st = .rdWait
  · rw [noteRead_of_rdWait s h, noteRead_of_rdWait { s with lateReqs := l } h]
  · rw [noteRead_of_ne s h, noteRead_of_ne { s with lateReqs := l } h]

/-- Settles O52: the request in flight by state, the late request settled, and the late response as a broken protocol. -/
theorem resetAbandonsTheWalk : Obligations.ResetAbandonsTheWalk := by
  refine ⟨fun p s t hr hv h => ?inFlight, fun s r l h => ⟨?dropped, fun hw => ?read, fun hw ha => ?performed⟩,
    fun p s r hm ha hv => ?late⟩
  case inFlight =>
    obtain ⟨-, -, ⟨-, rfl⟩ | ⟨hn, -⟩⟩ := clockEdge_eq_next h
    case inr => exact absurd hr (by simp [hn])
    obtain ⟨hm, hl⟩ := resetEdge_silent (s := setPins p (requestHeld p s) s) hv
    refine ⟨hm, fun h1 h2 h3 => hl.trans ?_, fun hs => hl.trans ?_, fun hs => hl.trans ?_, fun hs => hl.trans ?_⟩ <;>
      rw [setPins_walker, setPins_lateReqs]
    · rw [pendingRequest_none ((memOutstanding_eq_false_iff _).mpr ⟨h1, h2, h3⟩)]
      exact List.append_nil _
    · rw [pendingRequest_rdWait hs]
      rfl
    · rw [pendingRequest_zrWait hs, zeroAddr_eq_setWidth]
      rfl
    · rw [pendingRequest_inWait hs]
      rfl
  case dropped => exact congrArg _ (settleLate_dropped h rfl)
  case read => exact congrArg _ (settleLate_dropped h (by simp [hw]))
  case performed =>
    refine congrArg _ ((settleLate_performed h hw ha).trans ?_)
    rw [foreignWrite_only, noteRead_late]
  case late =>
    rw [clockEdge_eq_protocol_iff, protocolBroken, (lateResponse_iff p s).mpr ⟨hv, r, hm, ha⟩, Bool.or_true]

/-! ### Reads that a host write races -/

/-- What `RD_WAIT` does with any entry at level 2 or 1 goes on. -/
theorem edgeEntry_goes_on {s : State} (r : Word) (hl : s.walker.lvlQ = 2 ∨ s.walker.lvlQ = 1) :
    ∃ u, edgeEntry r s = .next u := by
  obtain ⟨he, -, -⟩ | ⟨-, hb, -⟩ | ⟨-, -, hl'⟩ := kind_cases r
  · cases hc : s.walker.createQ
    · exact ⟨_, edgeEntry_notMapped he hc⟩
    · exact ⟨_, edgeEntry_create he hc⟩
  · rw [edgeEntry_branch hb]
    obtain h2 | h1 := hl
    · exact ⟨_, edgeDescend_two h2 _⟩
    · exact ⟨_, edgeDescend_one h1 _⟩
  · exact ⟨_, edgeEntry_leaf hl'⟩

/-- The answer to a read at an edge that goes on is a value the word has held. -/
theorem readHeld_of_next {q : Pins} {t u : State} (hs : t.walker.st = .rdWait) (hr : q.rst = false)
    (hv : q.memRspValid = true) (h : clockEdge q t = .next u) : readHeld q.memRspRdata t = true := by
  obtain ⟨-, -, ⟨hn, -⟩ | ⟨-, h⟩⟩ := clockEdge_eq_next h
  · exact absurd hn (by simp [hr])
  · by_contra hh
    have hs' : (setPins q (requestHeld q t) t).walker.st = .rdWait := hs
    rw [fsmEdge_rdWait hs', edgeRdWait_notHeld hv (Bool.eq_false_iff.mpr hh)] at h
    exact nomatch h

/-- Settles O59: with nothing noted the word alone is held; after the write the word before it is held too. -/
theorem clockedReadsReturnAValueTheWordHeld : Obligations.ClockedReadsReturnAValueTheWordHeld := by
  refine ⟨fun p q s t u hs hpr ha h hqr hv hu => ?quiet, fun q s pa v hs hq hpa hl hadm => ?raced⟩
  case quiet =>
    obtain ⟨hb, -⟩ := clockEdge_eq_next h
    rw [clockEdge_rdReq hs hpr hb, edgeRdReq_accepted ha] at h
    injection h with h
    subst h
    exact (readHeld_of_quiet (s := openRead (setWalker (goto .rdWait s.walker) (setPins p p.reqValid s))) rfl).mp
      (readHeld_of_next rfl hqr hv hu)
  case raced =>
    refine ⟨foreignWrite (memSetWord s.mem pa.toNat v) s, hostAccess_inside hpa _, fun hqr hv hb => ?_⟩
    have ht : (foreignWrite (memSetWord s.mem pa.toNat v) s).walker = s.walker := foreignWrite_walker s _
    have hst := (congrArg Walker.st ht).trans hs
    have hadm' : admits (foreignWrite (memSetWord s.mem pa.toNat v) s).platform
        (slotAddr (foreignWrite (memSetWord s.mem pa.toNat v) s).walker) = true := by
      rw [ht, foreignWrite_platform]
      exact hadm
    have hh : readHeld q.memRspRdata (foreignWrite (memSetWord s.mem pa.toNat v) s) = true ↔
        q.memRspRdata = memWord s.mem (slotAddr s.walker).toNat ∨
        q.memRspRdata = memWord (memSetWord s.mem pa.toNat v) (slotAddr s.walker).toNat := by
      rw [readHeld, ht, foreignWrite_mem, foreignWrite_readSeen, noteRead_of_rdWait s hs]
      simp [hq, or_comm]
    refine ⟨fun hd => ?held, fun h1 h2 => ?other⟩
    case held =>
      rw [clockEdge_rdWait_answer hst hqr hb hv hadm' (hh.mpr hd)]
      exact edgeEntry_goes_on _ (by simpa [entryLatched] using hl)
    case other =>
      rw [clockEdge_rdWait hst hqr hb hadm']
      refine edgeRdWait_notHeld (s := setPins q q.reqValid _) hv (Bool.eq_false_iff.mpr fun hc => ?_)
      exact (hh.mp hc).elim h1 h2

end Sys2Proof.Machine
end

section
/-! The moves of the FSM, one constructor per way that an edge moves it (41_walker.md R140 to R150), and what a move and a
reset edge leave: memory but for the writes of R136, and the rest of the state outside the walker. -/

namespace Sys2Proof.Machine

/-! ### The moves -/

/-- `descend(p)` from `s`, at each level it is applied at (R150). -/
def descends (p : Ppn) (s t : State) : Prop :=
  (s.walker.lvlQ = 2 ∧ t = setWalker (goto .rdReq (enterNode p 1 s.walker)) s) ∨
  (s.walker.lvlQ = 1 ∧ t = setWalker (finish .ok 0 p (vpn s.walker.vaQ 0) (enterNode p 0 s.walker)) s)

theorem edgeDescend_eq_next {p : Ppn} {s t : State} (h : edgeDescend p s = .next t) : descends p s t := by
  rw [edgeDescend] at h
  split at h
  case isTrue hl =>
    injection h with h
    exact .inr ⟨hl, h.symm⟩
  case isFalse =>
    split at h
    case isTrue hl =>
      injection h with h
      exact .inl ⟨hl, h.symm⟩
    case isFalse => exact nomatch h

/-- The read outstanding has been answered with `r` (R143). -/
def readLatched (r : Word) (s : State) : State :=
  setWalker (latchEntry r s.walker) (record (.read (slotAddr s.walker) r) s)

/-- The walk ends at the entry visited, with its level, node and index. -/
def stopHere (x : Status) (s : State) : State :=
  setWalker (finish x s.walker.lvlQ s.walker.nodeQ (idxQ s.walker) s.walker) s

/-- The moves of the FSM from the state `s`, which holds the input levels of the edge. -/
inductive FsmMove (s : State) : State → Prop
  /-- `IDLE` accepts a request (R140). -/
  | accept (hs : s.walker.st = .idle) :
      FsmMove s (clearTxns (setWalker (acceptRequest s.pins.reqVa s.pins.reqRootPpn s.pins.reqCreate s.walker) s))
  /-- `CHECK` passes a canonical address (R141). -/
  | pass (hs : s.walker.st = .check) (hc : canonical s.walker.vaQ = true) :
      FsmMove s (setWalker (goto .rdReq s.walker) s)
  /-- `CHECK` refuses any other (R141). -/
  | reject (hs : s.walker.st = .check) (hc : canonical s.walker.vaQ = false) :
      FsmMove s (setWalker (finish .invalidAddress 3 0 0 s.walker) s)
  /-- The read is accepted (R142). -/
  | sendRead (hs : s.walker.st = .rdReq) : FsmMove s (openRead (setWalker (goto .rdWait s.walker) s))
  /-- An entry read empty under create policy (R143). -/
  | readCreate (r : Word) (hs : s.walker.st = .rdWait) (he : pteIsEmpty r = true) (hc : s.walker.createQ = true) :
      FsmMove s (setWalker (goto .alReq (readLatched r s).walker) (readLatched r s))
  /-- An entry read empty under no-create policy (R143). -/
  | readNotMapped (r : Word) (hs : s.walker.st = .rdWait) (hc : s.walker.createQ = false) :
      FsmMove s (stopHere .notMapped (readLatched r s))
  /-- A leaf read (R143). -/
  | readLeaf (r : Word) (hs : s.walker.st = .rdWait) : FsmMove s (stopHere .blockedBySuperpage (readLatched r s))
  /-- A branch read (R143). -/
  | readBranch (r : Word) (t : State) (hs : s.walker.st = .rdWait) (hd : descends (ptePpn r) (readLatched r s) t) :
      FsmMove s t
  /-- The allocation request is accepted (R144). -/
  | sendAlloc (hs : s.walker.st = .alReq) : FsmMove s (setWalker (goto .alWait s.walker) s)
  /-- The allocator gives a frame (R145). -/
  | granted (new : Ppn) (hs : s.walker.st = .alWait) :
      FsmMove s (setWalker (goto .zrReq (latchFrame new s.walker)) (record (.alloc (.ok new)) s))
  /-- The allocator refuses (R145). -/
  | refused (hs : s.walker.st = .alWait) : FsmMove s (stopHere .outOfMemory (record (.alloc .outOfMemory) s))
  /-- A zero write is accepted (R146). -/
  | sendZero (hs : s.walker.st = .zrReq) : FsmMove s (setWalker (goto .zrWait s.walker) s)
  /-- A zero write is performed (R146). -/
  | zeroDone (hs : s.walker.st = .zrWait) (hv : s.pins.memRspValid = true) :
      FsmMove s (setWalker (nextZero s.walker) (performWrite (zeroAddr s.walker) 0 s))
  /-- The install is accepted (R147). -/
  | sendInstall (hs : s.walker.st = .inReq) : FsmMove s (setWalker (goto .inWait s.walker) s)
  /-- The install is performed (R147). -/
  | installDone (t : State) (hs : s.walker.st = .inWait) (hv : s.pins.memRspValid = true)
      (hd : descends s.walker.newQ (performWrite (slotAddr s.walker) (branchEntry s.walker.newQ) s) t) : FsmMove s t
  /-- The response is taken (R149). -/
  | take (hs : s.walker.st = .rsp) : FsmMove s (takeResponse s)

theorem edgeEntry_moves {r : Word} {s t : State} (hs : s.walker.st = .rdWait)
    (h : edgeEntry r (readLatched r s) = .next t) : FsmMove s t := by
  obtain ⟨he, -, -⟩ | ⟨-, hb, -⟩ | ⟨-, -, hl⟩ := kind_cases r
  · cases hc : s.walker.createQ
    · rw [edgeEntry_notMapped he (by exact hc)] at h
      injection h with h
      exact h ▸ .readNotMapped r hs hc
    · rw [edgeEntry_create he (by exact hc)] at h
      injection h with h
      exact h ▸ .readCreate r hs he hc
  · rw [edgeEntry_branch hb] at h
    exact .readBranch r t hs (edgeDescend_eq_next h)
  · rw [edgeEntry_leaf hl] at h
    injection h with h
    exact h ▸ .readLeaf r hs

/-- A transition that goes on waits or makes a move. -/
theorem fsmEdge_eq_next {s t : State} (h : fsmEdge s = .next t) : t = s ∨ FsmMove s t := by
  cases hs : s.walker.st
  case idle =>
    rw [fsmEdge_idle hs, edgeIdle] at h
    split at h <;> injection h with h
    · exact .inr (h ▸ .accept hs)
    · exact .inl h.symm
  case check =>
    rw [fsmEdge_check hs, edgeCheck] at h
    split at h <;> injection h with h
    · exact .inr (h ▸ .pass hs ‹_›)
    · exact .inr (h ▸ .reject hs (Bool.eq_false_iff.mpr ‹_›))
  case rdReq =>
    rw [fsmEdge_rdReq hs, edgeRdReq] at h
    split at h <;> injection h with h
    · exact .inr (h ▸ .sendRead hs)
    · exact .inl h.symm
  case rdWait =>
    rw [fsmEdge_rdWait hs, edgeRdWait] at h
    split at h
    · split at h
      · exact .inr (edgeEntry_moves hs h)
      · exact nomatch h
    · injection h with h
      exact .inl h.symm
  case alReq =>
    rw [fsmEdge_alReq hs, edgeOffer] at h
    split at h <;> injection h with h
    · exact .inr (h ▸ .sendAlloc hs)
    · exact .inl h.symm
  case alWait =>
    rw [fsmEdge_alWait hs, edgeAlWait] at h
    split at h
    · split at h <;> injection h with h
      · exact .inr (h ▸ .granted _ hs)
      · exact .inr (h ▸ .refused hs)
    · injection h with h
      exact .inl h.symm
  case zrReq =>
    rw [fsmEdge_zrReq hs, edgeOffer] at h
    split at h <;> injection h with h
    · exact .inr (h ▸ .sendZero hs)
    · exact .inl h.symm
  case zrWait =>
    rw [fsmEdge_zrWait hs, edgeZrWait] at h
    split at h <;> injection h with h
    · exact .inr (h ▸ .zeroDone hs ‹_›)
    · exact .inl h.symm
  case inReq =>
    rw [fsmEdge_inReq hs, edgeOffer] at h
    split at h <;> injection h with h
    · exact .inr (h ▸ .sendInstall hs)
    · exact .inl h.symm
  case inWait =>
    rw [fsmEdge_inWait hs, edgeInWait] at h
    split at h
    · exact .inr (.installDone t hs ‹_› (edgeDescend_eq_next h))
    · injection h with h
      exact .inl h.symm
  case rsp =>
    rw [fsmEdge_rsp hs, edgeRsp] at h
    split at h <;> injection h with h
    · exact .inr (h ▸ .take hs)
    · exact .inl h.symm

/-! ### What a move leaves -/

/-- A descent moves the walker alone. -/
theorem descends_only {p : Ppn} {s t : State} (h : descends p s t) : t = setWalker t.walker s := by
  obtain ⟨-, rfl⟩ | ⟨-, rfl⟩ := h <;> rfl

/-- A move leaves all but the walker, memory, what is noted of a read, the result and the transactions. -/
theorem fsmMove_only {s t : State} (h : FsmMove s t) :
    t = { s with walker := t.walker, mem := t.mem, readSeen := t.readSeen, result := t.result, txns := t.txns } := by
  cases h with
  | readBranch r t hs hd => rw [descends_only hd]; rfl
  | installDone t hs hv hd => rw [descends_only hd]; rfl
  | accept | pass | reject | sendRead | readCreate | readNotMapped | readLeaf | sendAlloc | granted | refused | sendZero
  | zeroDone | sendInstall | take => rfl

/-- The write that an answer of the memory performs: a zero write of the new frame or the install (R136, R146, R147). -/
def writePerformed (s : State) (m : Mem) : Prop :=
  s.pins.memRspValid = true ∧
    ((s.walker.st = .zrWait ∧ m = memSetWord s.mem (zeroAddr s.walker).toNat 0) ∨
     (s.walker.st = .inWait ∧ m = memSetWord s.mem (slotAddr s.walker).toNat (branchEntry s.walker.newQ)))

theorem fsmMove_mem {s t : State} (h : FsmMove s t) : t.mem = s.mem ∨ writePerformed s t.mem := by
  cases h with
  | zeroDone hs hv => exact .inr ⟨hv, .inl ⟨hs, rfl⟩⟩
  | installDone t hs hv hd => exact .inr ⟨hv, .inr ⟨hs, by rw [descends_only hd]; rfl⟩⟩
  | readBranch r t hs hd => exact .inl (by rw [descends_only hd]; rfl)
  | accept | pass | reject | sendRead | readCreate | readNotMapped | readLeaf | sendAlloc | granted | refused | sendZero
  | sendInstall | take => exact .inl rfl

/-- A reset edge writes what its answer performs, if it is the answer to a write. -/
theorem resetEdge_mem (s : State) : (resetEdge s).mem = s.mem ∨ writePerformed s (resetEdge s).mem := by
  cases hv : s.pins.memRspValid
  · exact .inl (resetEdge_silent hv).1
  · simp only [resetEdge, settlePending]
    cases hs : s.walker.st
    case rdWait => rw [pendingRequest_rdWait hs]; simp [hv]
    case zrWait => rw [pendingRequest_zrWait hs]; simp [hv, writePerformed, hs]
    case inWait => rw [pendingRequest_inWait hs]; simp [hv, writePerformed, hs]
    all_goals rw [pendingRequest_none (by simp [memOutstanding, hs])]; exact .inl rfl

/-- Memory after an edge that goes on. -/
theorem clockEdge_mem {p : Pins} {s t : State} (h : clockEdge p s = .next t) :
    t.mem = s.mem ∨ writePerformed (setPins p (requestHeld p s) s) t.mem := by
  obtain ⟨-, -, ⟨-, rfl⟩ | ⟨-, h⟩⟩ := clockEdge_eq_next h
  · exact resetEdge_mem (setPins p (requestHeld p s) s)
  · obtain rfl | h := fsmEdge_eq_next h
    · exact .inl rfl
    · exact fsmMove_mem h

theorem walkerOk_zrWait {w : Walker} (h : w.st = .zrWait) : walkerOk w = true ↔ creating w = true ∧ w.ziQ.toNat < 512 := by
  simp [walkerOk, h]

theorem walkerOk_inWait {w : Walker} (h : w.st = .inWait) : walkerOk w = true ↔ creating w = true ∧ w.ziQ = 512 := by
  simp [walkerOk, h]

/-- A byte that a word write of an entry changes lies in the entry. -/
theorem inEntry_of_changed {m : Mem} (hm : memWf m = true) {node : Ppn} {idx : Idx} {v : Word} {a : Nat}
    (h : memByte (memSetWord m (entryPa node idx).toNat v) a ≠ memByte m a) : inEntry (entryPa node idx) a := by
  by_contra hn
  rw [memByte_memSetWord hm v (entryPa_inside node idx), if_neg hn] at h
  exact h rfl

/-- Settles O49: an edge that changes memory has performed a write, and the invariant of its state gives the rest. -/
theorem edgesWriteOnlyNewFrameOrEmptySlot : Obligations.EdgesWriteOnlyNewFrameOrEmptySlot := by
  intro p s t a hi h hne
  obtain hm | ⟨hv, ⟨hs, hm⟩ | ⟨hs, hm⟩⟩ := clockEdge_mem h
  · exact absurd (by rw [hm]) hne
  · obtain ⟨hc, -⟩ := (walkerOk_zrWait hs).mp hi.walker
    obtain ⟨-, hp, he⟩ := (creating_iff _).mp hc
    rw [hm] at hne
    exact ⟨hv, hp, he, .inl ⟨hs, ((inside_entryPa_iff _ _ a).mp (inEntry_of_changed hi.mem hne)).1⟩⟩
  · obtain ⟨hc, -⟩ := (walkerOk_inWait hs).mp hi.walker
    obtain ⟨-, hp, he⟩ := (creating_iff _).mp hc
    rw [hm] at hne
    exact ⟨hv, hp, he, .inr ⟨hs, inEntry_of_changed hi.mem hne⟩⟩

end Sys2Proof.Machine
end

section
/-! The invariant of the walker's registers and of the state over one edge, and over the wait for `IDLE`. -/

namespace Sys2Proof.Machine

/-! ### The invariant of the walker's registers -/

/-- A walk past `CHECK` is at level 2 or 1 with a canonical address. -/
theorem descending_iff (w : Walker) :
    descending w = true ↔ (w.lvlQ = 2 ∨ w.lvlQ = 1) ∧ canonical w.vaQ = true := by
  simp [descending, walkLevel]

theorem walkerOk_check {w : Walker} (h : w.st = .check) : walkerOk w = true ↔ w.lvlQ = 2 := by simp [walkerOk, h]

theorem walkerOk_rdReq {w : Walker} (h : w.st = .rdReq) : walkerOk w = true ↔ descending w = true := by
  simp [walkerOk, h]

theorem walkerOk_rdWait {w : Walker} (h : w.st = .rdWait) : walkerOk w = true ↔ descending w = true := by
  simp [walkerOk, h]

theorem walkerOk_alReq {w : Walker} (h : w.st = .alReq) : walkerOk w = true ↔ creating w = true := by simp [walkerOk, h]

theorem walkerOk_alWait {w : Walker} (h : w.st = .alWait) : walkerOk w = true ↔ creating w = true := by
  simp [walkerOk, h]

/-- A refused address is a legal response that fits the request. -/
theorem walkerOk_refuse {w : Walker} (h : canonical w.vaQ = false) :
    walkerOk (finish .invalidAddress 3 0 0 w) = true := by
  simp [walkerOk, responseLegal, responseOf, responseFits, statusCode, h]

/-- A slot found is a legal response that fits the request. -/
theorem walkerOk_found {w : Walker} (h : canonical w.vaQ = true) (node : Ppn) :
    walkerOk (finish .ok 0 node (vpn w.vaQ 0) w) = true := by
  simp [walkerOk, responseLegal, responseOf, responseFits, statusCode, h]

/-- A walk stopped at the entry visited has a legal response that fits the request, with the status its policy admits. -/
theorem walkerOk_stopHere {x : Status} {s : State} (h : descending s.walker = true)
    (hx : x = .blockedBySuperpage ∨ (s.walker.createQ = false ∧ x = .notMapped) ∨
      (s.walker.createQ = true ∧ x = .outOfMemory)) : walkerOk (stopHere x s).walker = true := by
  obtain ⟨hl, hc⟩ := (descending_iff _).mp h
  have hl' : walkLevel s.walker.lvlQ = true := by simpa [walkLevel] using hl
  obtain rfl | ⟨hp, rfl⟩ | ⟨hp, rfl⟩ := hx <;>
    simp [stopHere, walkerOk, responseLegal, responseOf, responseFits, statusCode, idxQ, *]

/-- A descent of a walk past `CHECK` leads to a read at level 1 or to the slot found. -/
theorem walkerOk_descends {p : Ppn} {s t : State} (h : descends p s t) (hd : descending s.walker = true) :
    walkerOk t.walker = true := by
  obtain ⟨-, hc⟩ := (descending_iff _).mp hd
  obtain ⟨-, rfl⟩ | ⟨-, rfl⟩ := h
  · exact (walkerOk_rdReq rfl).mpr ((descending_iff _).mpr ⟨.inr rfl, hc⟩)
  · exact walkerOk_found (w := enterNode p 0 s.walker) hc p

theorem walkerOk_nextZero {w : Walker} (hc : creating w = true) (hz : w.ziQ.toNat < 512) :
    walkerOk (nextZero w) = true := by
  by_cases hl : w.ziQ.toNat = 511
  · rw [nextZero_of_last hl]
    exact (walkerOk_inReq rfl).mpr ⟨hc, rfl⟩
  · obtain ⟨he, hn⟩ := nextZero_of_lt (w := w) (by omega)
    rw [he]
    exact (walkerOk_zrReq rfl).mpr ⟨hc, by simp only [goto_ziQ]; omega⟩

/-- Every move keeps what holds of the registers in each state. -/
theorem fsmMove_walkerOk {s t : State} (h : FsmMove s t) (hw : walkerOk s.walker = true) : walkerOk t.walker = true := by
  cases h with
  | accept hs => rfl
  | pass hs hc =>
    exact (walkerOk_rdReq rfl).mpr ((descending_iff _).mpr ⟨.inl ((walkerOk_check hs).mp hw), hc⟩)
  | reject hs hc => exact walkerOk_refuse hc
  | sendRead hs => exact (walkerOk_rdWait rfl).mpr ((walkerOk_rdReq hs).mp hw)
  | readCreate r hs he hc =>
    have hd := (walkerOk_rdWait hs).mp hw
    exact (walkerOk_alReq rfl).mpr ((creating_iff _).mpr ⟨hd, hc, (pteIsEmpty_iff r).mp he⟩)
  | readNotMapped r hs hc =>
    exact walkerOk_stopHere (s := readLatched r s) ((walkerOk_rdWait hs).mp hw) (.inr (.inl ⟨hc, rfl⟩))
  | readLeaf r hs => exact walkerOk_stopHere (s := readLatched r s) ((walkerOk_rdWait hs).mp hw) (.inl rfl)
  | readBranch r t hs hd => exact walkerOk_descends hd ((walkerOk_rdWait hs).mp hw)
  | sendAlloc hs => exact (walkerOk_alWait rfl).mpr ((walkerOk_alReq hs).mp hw)
  | granted new hs => exact (walkerOk_zrReq rfl).mpr ⟨(walkerOk_alWait hs).mp hw,
    show (0 : Zi).toNat < 512 by decide⟩
  | refused hs =>
    obtain ⟨hd, hc, -⟩ := (creating_iff _).mp ((walkerOk_alWait hs).mp hw)
    exact walkerOk_stopHere (s := record _ s) hd (.inr (.inr ⟨hc, rfl⟩))
  | sendZero hs => exact (walkerOk_zrWait rfl).mpr ((walkerOk_zrReq hs).mp hw)
  | zeroDone hs hv =>
    obtain ⟨hc, hz⟩ := (walkerOk_zrWait hs).mp hw
    exact walkerOk_nextZero hc hz
  | sendInstall hs => exact (walkerOk_inWait rfl).mpr ((walkerOk_inReq hs).mp hw)
  | installDone t hs hv hd =>
    obtain ⟨hc, -⟩ := (walkerOk_inWait hs).mp hw
    exact walkerOk_descends hd ((creating_iff _).mp hc).1
  | take hs => rfl

/-! ### The invariant of the state -/

theorem walkerOk_rsp {w : Walker} (h : w.st = .rsp) :
    walkerOk w = true ↔ responseLegal (responseOf w) = true ∧ responseFits w = true := by
  simp [walkerOk, h]

/-- A write that an answer performs is of an entry, so memory keeps its one form. -/
theorem memWf_writePerformed {s : State} {m : Mem} (h : m = s.mem ∨ writePerformed s m) (hm : memWf s.mem = true) :
    memWf m = true := by
  obtain rfl | ⟨-, ⟨-, rfl⟩ | ⟨-, rfl⟩⟩ := h
  · exact hm
  · exact memWf_memSetWord hm _ (entryPa_inside _ _)
  · exact memWf_memSetWord hm _ (entryPa_inside _ _)

/-- A move changes the result only by taking a response. -/
theorem fsmMove_result {s t : State} (h : FsmMove s t) :
    t.result = s.result ∨ (s.walker.st = .rsp ∧ t.result = .walk (responseOf s.walker)) := by
  cases h with
  | take hs => exact .inr ⟨hs, rfl⟩
  | readBranch r t hs hd => exact .inl (by rw [descends_only hd]; rfl)
  | installDone t hs hv hd => exact .inl (by rw [descends_only hd]; rfl)
  | accept | pass | reject | sendRead | readCreate | readNotMapped | readLeaf | sendAlloc | granted | refused | sendZero
  | zeroDone | sendInstall => exact .inl rfl

/-- Every move keeps the invariant. -/
theorem fsmMove_invariant {s t : State} (h : FsmMove s t) (hi : Invariant s) : Invariant t := by
  have ho := fsmMove_only h
  refine ⟨fsmMove_walkerOk h hi.walker, memWf_writePerformed (fsmMove_mem h) hi.mem, ?late, ?result, ?waiting⟩
  case late => rw [ho]; exact hi.late
  case result =>
    obtain hr | ⟨hs, hr⟩ := fsmMove_result h
    · rw [hr]; exact hi.result
    · rw [hr]; exact ((walkerOk_rsp hs).mp hi.walker).1
  case waiting => rw [ho]; exact hi.waiting

theorem lateReqOk_entry (we : Bool) (node : Ppn) (idx : Idx) (v : Word) (h : we = false → v = 0) :
    lateReqOk ⟨we, entryPa node idx, v⟩ = true := by
  cases we <;> simp [lateReqOk, entryPa_aligned, h]

/-- The late requests stay in their form when the one in flight is added. -/
theorem settlePending_late {s : State} (h : s.lateReqs.all lateReqOk = true) :
    (settlePending s).lateReqs.all lateReqOk = true := by
  obtain he | ⟨node, idx, v, he⟩ | ⟨we, node, idx, v, hv, he⟩ := settlePending_cases s
  · rw [he]; exact h
  · rw [he]; exact h
  · rw [he]
    simp [List.all_append, h, lateReqOk_entry we node idx v hv]

/-- A reset edge keeps the invariant. -/
theorem resetEdge_invariant {s : State} (hi : Invariant s) : Invariant (resetEdge s) := by
  obtain ⟨m, l, x, ho⟩ := resetEdge_only s
  refine ⟨rfl, memWf_writePerformed (resetEdge_mem s) hi.mem, settlePending_late hi.late, ?_, ?_⟩
  · rw [ho]; exact hi.result
  · rw [ho]; exact hi.waiting

/-- The levels of an edge keep the invariant: a request held is one offered. -/
theorem setPins_invariant {s : State} (hi : Invariant s) (p : Pins) : Invariant (setPins p (requestHeld p s) s) :=
  ⟨hi.walker, hi.mem, hi.late, hi.result, fun h => And.left (by simpa [requestHeld] using h)⟩

/-- Every edge that goes on keeps the invariant. -/
theorem ownEdge_invariant {p : Pins} {s t : State} (hi : Invariant s) (h : ownEdge p s = .next t) : Invariant t := by
  have hp := setPins_invariant hi p
  obtain ⟨-, -, ⟨-, rfl⟩ | ⟨-, h⟩⟩ := ownEdge_eq_next h
  · exact resetEdge_invariant hp
  · obtain rfl | h := fsmEdge_eq_next h
    · exact hp
    · exact fsmMove_invariant h hp

theorem clockEdge_eq_next_own {p : Pins} {s t : State} (h : clockEdge p s = .next t) : ownEdge p s = .next t := by
  obtain ⟨hb, -⟩ := clockEdge_eq_next h
  exact clockEdge_own hb ▸ h

/-- No edge changes the parameters. -/
theorem ownEdge_platform {p : Pins} {s t : State} (h : ownEdge p s = .next t) : t.platform = s.platform := by
  obtain ⟨-, -, ⟨-, rfl⟩ | ⟨-, h⟩⟩ := ownEdge_eq_next h
  · obtain ⟨m, l, x, ho⟩ := resetEdge_only (setPins p (requestHeld p s) s)
    rw [ho]
    rfl
  · obtain rfl | h := fsmEdge_eq_next h
    · rfl
    · rw [fsmMove_only h]
      rfl

/-! ### Waiting for the walker -/

/-- An edge in the environment that stalls nothing is an edge, at an allocator that may have answered. -/
theorem easyEdge_eq_next {s t : State} (h : easyEdge s = .next t) : ∃ p s',
    s' = { s with allocScript := s'.allocScript, allocDraws := s'.allocDraws } ∧ ownEdge p s' = .next t := by
  have hm : ∀ t, memAnswer s = .next t → ∃ p, ownEdge p s = .next t := fun t h => by
    unfold memAnswer at h
    split at h
    · exact ⟨_, h⟩
    · exact nomatch h
  unfold easyEdge at h
  split at h
  case h_4 =>
    unfold allocAnswerEdge at h
    split at h
    case h_1 ha => exact ⟨_, _, nextAnswer_only ha, h⟩
    case h_2 => exact nomatch h
  case h_1 | h_2 | h_3 =>
    obtain ⟨p, h⟩ := hm t h
    exact ⟨p, s, rfl, h⟩
  all_goals exact ⟨_, s, rfl, h⟩

/-- The invariant does not rest on the allocator. -/
theorem invariant_allocator {s s' : State} (hi : Invariant s)
    (h : s' = { s with allocScript := s'.allocScript, allocDraws := s'.allocDraws }) : Invariant s' := by
  rw [h]
  exact ⟨hi.walker, hi.mem, hi.late, hi.result, hi.waiting⟩

theorem easyEdge_invariant {s t : State} (hi : Invariant s) (h : easyEdge s = .next t) : Invariant t := by
  obtain ⟨p, s', hs', h⟩ := easyEdge_eq_next h
  exact ownEdge_invariant (invariant_allocator hi hs') h

theorem easyEdge_platform {s t : State} (h : easyEdge s = .next t) : t.platform = s.platform := by
  obtain ⟨p, s', hs', h⟩ := easyEdge_eq_next h
  rw [ownEdge_platform h, hs']

/-- What each edge keeps, waiting for `IDLE` keeps. -/
theorem untilIdle_keeps {P : State → Prop} (hP : ∀ {s t}, P s → easyEdge s = .next t → P t) {n : Nat} {s t : State}
    (hs : P s) (h : untilIdle n s = .next t) : P t := by
  induction n generalizing s with
  | zero =>
    rw [untilIdle] at h
    split at h
    · injection h with h
      exact h ▸ hs
    · exact nomatch h
  | succ n ih =>
    rw [untilIdle] at h
    split at h
    · injection h with h
      exact h ▸ hs
    · obtain ⟨u, hu, h⟩ := andThen_eq_next h
      exact ih (hP hs hu) h

theorem awaitIdle_invariant {s t : State} (hi : Invariant s) (h : awaitIdle s = .next t) : Invariant t :=
  untilIdle_keeps easyEdge_invariant hi h

theorem awaitIdle_platform {s t : State} (h : awaitIdle s = .next t) : t.platform = s.platform :=
  untilIdle_keeps (P := fun u => u.platform = s.platform) (fun hu he => (easyEdge_platform he).trans hu) rfl h

end Sys2Proof.Machine
end

section
/-! The invariant and the parameters over the operations, the actions of the host and the step. -/

namespace Sys2Proof.Machine

/-! ### The walk operations -/

theorem turns_keep_memWf (create : Bool) : TurnsKeep create (fun _ u => memWf u.mem = true) (fun t => memWf t.mem = true) where
  descends := fun _ h => h
  makes := fun _ _ h _ ha => by
    obtain ⟨hm, -⟩ := nextAnswer_frame ha
    rw [afterCreate_mem, record_mem, hm]
    exact memWf_grown h _ _ _
  stops := fun _ h _ => h
  refused := fun _ _ h ha => by
    obtain ⟨hm, -⟩ := nextAnswer_frame ha
    rw [ended_mem, record_mem, hm]
    exact h
  finds := fun h => h

/-- A legal end of a walk is a legal response. -/
theorem responseLegal_ended {create : Bool} {x : Status} {level : Lvl} {node : Ppn} {idx : Idx}
    (h : loopEndsWith create x level ∨ (x = .invalidAddress ∧ level = 3 ∧ node = 0 ∧ idx = 0)) :
    responseLegal ⟨statusCode x, level, node, idx, entryPa node idx⟩ = true := by
  have hw : level = 2 ∨ level = 1 → walkLevel level = true := fun hl => by simpa [walkLevel] using hl
  obtain (⟨rfl, rfl⟩ | ⟨hl, rfl | ⟨-, rfl⟩ | ⟨-, rfl⟩⟩) | ⟨rfl, rfl, rfl, rfl⟩ := h
  · simp [responseLegal, statusCode]
  · simp [responseLegal, statusCode, hw hl]
  · simp [responseLegal, statusCode, hw hl]
  · simp [responseLegal, statusCode, hw hl]
  · simp [responseLegal, statusCode]

/-- Both walk operations keep the invariant. -/
theorem exec_walkOf_invariant {create : Bool} {va : Word} {root : Ppn} {s t : State} (hi : Invariant s)
    (h : exec (walkOf create va root) s = .next t) : Invariant t := by
  obtain ⟨b, hb, hf, -⟩ := exec_walkOf_frame h
  obtain ⟨x, level, node, idx, u, ht, hx⟩ := exec_walkOf_ends h
  have hib := awaitIdle_invariant hi hb
  refine ⟨?walker, ?mem, ?late, ?result, fun hw => absurd (hf.waiting.symm.trans hw) (by decide)⟩
  case walker => rw [ht]; rfl
  case mem =>
    obtain ⟨b', hb', h⟩ := exec_walkOf_eq_next h
    rw [hb] at hb'
    injection hb' with hb'
    subst hb'
    obtain ⟨-, h⟩ | ⟨-, rfl⟩ := h
    · exact walkLoop_keeps (turns_keep_memWf create) (s := beginWalk va root create b) hib.mem h
    · exact hib.mem
  case late =>
    obtain ⟨-, -, -, hl, -⟩ := hf.keeps
    rw [hl]
    exact hib.late
  case result => rw [ht]; exact responseLegal_ended hx

theorem exec_walkOf_platform {create : Bool} {va : Word} {root : Ppn} {s t : State}
    (h : exec (walkOf create va root) s = .next t) : t.platform = s.platform := by
  obtain ⟨b, hb, hf, -⟩ := exec_walkOf_frame h
  obtain ⟨-, hp, -⟩ := hf.keeps
  exact hp.trans (awaitIdle_platform hb)

/-- Every operation is a codec operation or a walk. -/
theorem codec_or_walk (i : Instr) : i.opid.toNat ≤ 7 ∨ ∃ create va root, i = walkOf create va root := by
  cases i with
  | walkNc va root => exact .inr ⟨false, va, root, rfl⟩
  | walkC va root => exact .inr ⟨true, va, root, rfl⟩
  | encode | decode | isEmpty | isBranch | isLeaf | paToPpn | ppnToPa | vaSplit => exact .inl (by simp [Instr.opid])

/-- Every operation keeps the invariant. -/
theorem exec_invariant {i : Instr} {s t : State} (hi : Invariant s) (h : exec i s = .next t) : Invariant t := by
  obtain hc | ⟨create, va, root, rfl⟩ := codec_or_walk i
  · obtain ⟨r, c, hr, rfl⟩ := exec_codec_eq_next hc h
    exact ⟨hi.walker, hi.mem, hi.late, hr, hi.waiting⟩
  · exact exec_walkOf_invariant hi h

/-- No operation changes the parameters. -/
theorem exec_platform {i : Instr} {s t : State} (h : exec i s = .next t) : t.platform = s.platform := by
  obtain hc | ⟨create, va, root, rfl⟩ := codec_or_walk i
  · obtain ⟨r, c, -, rfl⟩ := exec_codec_eq_next hc h
    rfl
  · exact exec_walkOf_platform h

/-! ### The host's actions -/

theorem runWord_eq_next {w : OpWord} {s t : State} (h : runWord w s = .next t) : ∃ i, exec i s = .next t := by
  unfold runWord at h
  split at h
  · exact ⟨_, h⟩
  · exact nomatch h

theorem hostAccess_eq_next {pa : Pa} {n : Nat} {o : Out} {t : State} (h : hostAccess pa n o = .next t) :
    pa.toNat + n ≤ 2 ^ 56 ∧ o = .next t := by
  unfold hostAccess at h
  split at h
  case isTrue ha => exact ⟨of_decide_eq_true ha, h⟩
  case isFalse => exact nomatch h

/-- Another agent's write of a memory in the one form keeps the invariant. -/
theorem foreignWrite_invariant {s : State} {m : Mem} (hi : Invariant s) (hm : memWf m = true) :
    Invariant (foreignWrite m s) := by
  rw [foreignWrite_only]
  exact ⟨hi.walker, hm, hi.late, hi.result, hi.waiting⟩

theorem hostWrite_invariant {pa : Pa} {v : Word} {s t : State} (hi : Invariant s) (h : hostWrite pa v s = .next t) :
    Invariant t := by
  obtain ⟨ha, h⟩ := hostAccess_eq_next h
  injection h with h
  exact h ▸ foreignWrite_invariant hi (memWf_memSetWord hi.mem v ha)

theorem hostWrite_platform {pa : Pa} {v : Word} {s t : State} (h : hostWrite pa v s = .next t) :
    t.platform = s.platform := by
  obtain ⟨-, h⟩ := hostAccess_eq_next h
  injection h with h
  exact h ▸ foreignWrite_platform s _

section
variable {P : State → Prop} (he : ∀ {i s t}, P s → exec i s = .next t → P t)
  (hw : ∀ {pa v s t}, P s → hostWrite pa v s = .next t → P t) {r : Response} {s t : State} (hs : P s)
include hw hs

theorem writeLeaf_keeps (h : writeLeaf r s = .next t) : P t := by
  unfold writeLeaf at h
  split at h
  · exact hw hs h
  · injection h with h
    exact h ▸ hs

include he

theorem encodeLeaf_keeps {pa : Word} {flags : Flags} (h : encodeLeaf r pa flags s = .next t) : P t := by
  obtain ⟨u, hu, h⟩ := andThen_eq_next h
  split at h
  · obtain ⟨v, hv, h⟩ := andThen_eq_next h
    exact writeLeaf_keeps hw (he (he hs hu) hv) h
  · injection h with h
    exact h ▸ he hs hu

/-- What each operation and each word write of the host keeps, `LEAF.SET`, which is made of them, keeps. -/
theorem hostLeafSet_keeps {va : Word} {root : Ppn} {pa : Word} {flags : Flags}
    (h : hostLeafSet va root pa flags s = .next t) : P t := by
  obtain ⟨u, hu, h⟩ := andThen_eq_next h
  have hPu := he hs hu
  split at h
  · split at h
    · exact encodeLeaf_keeps he hw hPu h
    · injection h with h
      exact h ▸ hPu
  · injection h with h
    exact h ▸ hPu

end

/-- A late request answered keeps the invariant: a write of one is aligned, so inside the address space. -/
theorem settleLate_invariant {s : State} (hi : Invariant s) (b : Bool) : Invariant (settleLate b s) := by
  cases hl : s.lateReqs with
  | nil =>
    rw [settleLate, hl]
    exact hi
  | cons r l =>
    obtain ⟨hr, hls⟩ := Bool.and_eq_true_iff.mp (List.all_cons ▸ hl ▸ hi.late)
    have hi' : Invariant { s with lateReqs := l } := ⟨hi.walker, hi.mem, hls, hi.result, hi.waiting⟩
    cases hn : b && r.we && admits s.platform r.addr
    · rw [settleLate_dropped hl hn]
      exact hi'
    · obtain ⟨⟨rfl, hw⟩, ha⟩ : (b = true ∧ r.we = true) ∧ admits s.platform r.addr = true := by simpa using hn
      rw [settleLate_performed hl hw ha]
      have haddr := r.addr.isLt
      have hal : r.addr.toNat % 8 = 0 := by
        obtain ⟨h8, -⟩ := Bool.and_eq_true_iff.mp hr
        exact of_decide_eq_true h8
      exact foreignWrite_invariant hi' (memWf_memSetWord hi.mem _ (by omega))

theorem settleLate_platform (b : Bool) (s : State) : (settleLate b s).platform = s.platform := by
  unfold settleLate
  split
  · rfl
  · simp only
    split
    · exact foreignWrite_platform _ _
    · rfl

/-- Every action of the host keeps the invariant. -/
theorem perform_invariant {a : HostAction} {s t : State} (hi : Invariant s) (h : perform a s = .next t) :
    Invariant t := by
  cases a with
  | op w =>
    obtain ⟨i, h⟩ := runWord_eq_next h
    exact exec_invariant hi h
  | edge p => exact ownEdge_invariant hi (clockEdge_eq_next_own h)
  | driveCodec c =>
    injection h with h
    exact h ▸ ⟨hi.walker, hi.mem, hi.late, hi.result, hi.waiting⟩
  | hostWrite pa v => exact hostWrite_invariant hi h
  | hostRead pa =>
    obtain ⟨-, h⟩ := hostAccess_eq_next h
    injection h with h
    exact h ▸ ⟨hi.walker, hi.mem, hi.late, rfl, hi.waiting⟩
  | hostWriteByte pa v =>
    obtain ⟨ha, h⟩ := hostAccess_eq_next h
    injection h with h
    exact h ▸ foreignWrite_invariant hi (memWfFrom_memSetByte hi.mem v (by omega) (Nat.zero_le _))
  | hostReadByte pa =>
    obtain ⟨-, h⟩ := hostAccess_eq_next h
    injection h with h
    exact h ▸ ⟨hi.walker, hi.mem, hi.late, rfl, hi.waiting⟩
  | allocScript l =>
    injection h with h
    exact h ▸ ⟨hi.walker, hi.mem, hi.late, hi.result, hi.waiting⟩
  | leafSet va root pa flags => exact hostLeafSet_keeps exec_invariant hostWrite_invariant hi h
  | lateAnswer b =>
    injection h with h
    exact h ▸ settleLate_invariant hi b

/-- No action of the host changes the parameters. -/
theorem perform_platform {a : HostAction} {s t : State} (h : perform a s = .next t) : t.platform = s.platform := by
  cases a with
  | op w =>
    obtain ⟨i, h⟩ := runWord_eq_next h
    exact exec_platform h
  | edge p => exact ownEdge_platform (clockEdge_eq_next_own h)
  | driveCodec c => injection h with h; exact h ▸ rfl
  | hostWrite pa v => exact hostWrite_platform h
  | hostRead pa =>
    obtain ⟨-, h⟩ := hostAccess_eq_next h
    injection h with h
    exact h ▸ rfl
  | hostWriteByte pa v =>
    obtain ⟨-, h⟩ := hostAccess_eq_next h
    injection h with h
    exact h ▸ foreignWrite_platform s _
  | hostReadByte pa =>
    obtain ⟨-, h⟩ := hostAccess_eq_next h
    injection h with h
    exact h ▸ rfl
  | allocScript l => injection h with h; exact h ▸ rfl
  | leafSet va root pa flags =>
    exact hostLeafSet_keeps (P := fun u => u.platform = s.platform) (fun hu he => (exec_platform he).trans hu)
      (fun hu he => (hostWrite_platform he).trans hu) rfl h
  | lateAnswer b =>
    injection h with h
    exact h ▸ settleLate_platform b s

/-- Settles O54: a step is an action of the host, and the list of actions is no part of the invariant. -/
theorem stepKeepsTheInvariant : Obligations.StepKeepsTheInvariant := by
  intro s t hi h
  cases hh : s.host with
  | nil =>
    rw [blockWaitsForTheHost s hh] at h
    injection h with h
    exact h ▸ hi
  | cons a rest =>
    rw [step_cons hh] at h
    have hi' : Invariant (takeAction rest s) := ⟨hi.walker, hi.mem, hi.late, hi.result, hi.waiting⟩
    exact perform_invariant hi' h

/-- Settles O55: a step is an action of the host. -/
theorem noStepChangesTheParameters : Obligations.NoStepChangesTheParameters := by
  intro s t h
  cases hh : s.host with
  | nil =>
    rw [blockWaitsForTheHost s hh] at h
    injection h with h
    exact h ▸ rfl
  | cons a rest =>
    rw [step_cons hh] at h
    exact (perform_platform h).trans (takeAction_platform s rest)

end Sys2Proof.Machine
end

section
/-! A walk in progress ends (41_walker.md R138, R152): a bound on the edges left that every move lowers, and the walks that
then complete on memory that serves every address. -/

namespace Sys2Proof.Machine

/-! ### The edges a walk has left -/

/-- The edges left once the walk has gone down from this level: a whole turn at level 1 and the response, or the response. -/
def leftBelow (level : Lvl) : Nat := if level = 2 then 1031 else 1

/-- A bound on the edges a walk has left where nothing stalls it: in each turn 2 for the read, 2 for the allocation, 2 for
each of the 512 zero writes and 2 for the install (R138). -/
def edgesLeft (w : Walker) : Nat :=
  match w.st with
  | .idle => 0
  | .check => 2062
  | .rdReq => 1030 + leftBelow w.lvlQ
  | .rdWait => 1029 + leftBelow w.lvlQ
  | .alReq => 1028 + leftBelow w.lvlQ
  | .alWait => 1027 + leftBelow w.lvlQ
  | .zrReq => 2 * (512 - w.ziQ.toNat) + 2 + leftBelow w.lvlQ
  | .zrWait => 2 * (512 - w.ziQ.toNat) + 1 + leftBelow w.lvlQ
  | .inReq => 2 + leftBelow w.lvlQ
  | .inWait => 1 + leftBelow w.lvlQ
  | .rsp => 1

theorem leftBelow_le (level : Lvl) : leftBelow level ≤ 1031 := by
  unfold leftBelow
  split <;> omega

theorem edgesLeft_le (w : Walker) : edgesLeft w ≤ walkFuel := by
  have h := leftBelow_le w.lvlQ
  unfold edgesLeft walkFuel
  split <;> omega

theorem edgesLeft_pos {w : Walker} (h : w.st ≠ .idle) : 0 < edgesLeft w := by
  unfold edgesLeft
  split
  case h_1 hs => exact absurd hs h
  all_goals omega

/-- A descent leaves the edges below. -/
theorem edgesLeft_descends {p : Ppn} {s t : State} (h : descends p s t) :
    edgesLeft t.walker = leftBelow s.walker.lvlQ := by
  obtain ⟨hl, rfl⟩ | ⟨hl, rfl⟩ := h <;> rw [hl] <;> rfl

theorem edgesLeft_nextZero {w : Walker} (h : w.ziQ.toNat < 512) :
    edgesLeft (nextZero w) = 2 * (512 - w.ziQ.toNat) + leftBelow w.lvlQ := by
  by_cases hl : w.ziQ.toNat = 511
  · rw [nextZero_of_last hl, hl]
    rfl
  · obtain ⟨he, hn⟩ := nextZero_of_lt (w := w) (by omega)
    rw [he, edgesLeft]
    simp only [goto_st, goto_ziQ, goto_lvlQ, hn]
    omega

/-- Every move of a walk in progress lowers the bound. -/
theorem fsmMove_edgesLeft {s t : State} (h : FsmMove s t) (hw : walkerOk s.walker = true) (hb : s.walker.st ≠ .idle) :
    edgesLeft t.walker < edgesLeft s.walker := by
  cases h with
  | accept hs => exact absurd hs hb
  | pass hs hc =>
    have hl := (walkerOk_check hs).mp hw
    simp [edgesLeft, hs, hl, leftBelow]
  | zeroDone hs hv =>
    obtain ⟨-, hz⟩ := (walkerOk_zrWait hs).mp hw
    rw [setWalker_walker, edgesLeft_nextZero hz]
    simp only [edgesLeft, hs]
    omega
  | readBranch r t hs hd =>
    rw [edgesLeft_descends hd]
    simp only [edgesLeft, hs, readLatched, setWalker_walker, latchEntry_lvlQ]
    omega
  | installDone t hs hv hd =>
    rw [edgesLeft_descends hd]
    simp only [edgesLeft, hs, performWrite_walker]
    omega
  | granted new hs => simp [edgesLeft, hs]
  | readNotMapped r hs | readLeaf r hs | refused hs =>
    simp only [edgesLeft, hs, stopHere, setWalker_walker, finish_st]
    omega
  | reject hs | sendRead hs | readCreate r hs | sendAlloc hs | sendZero hs | sendInstall hs | take hs =>
    simp [edgesLeft, hs, readLatched]

/-! ### What the moves of a walk in progress keep -/

/-- A walk in progress keeps the request latched. -/
theorem fsmMove_request {s t : State} (h : FsmMove s t) (hb : s.walker.st ≠ .idle) :
    t.walker.vaQ = s.walker.vaQ ∧ t.walker.createQ = s.walker.createQ := by
  have hd : ∀ {p s t}, descends p s t → t.walker.vaQ = s.walker.vaQ ∧ t.walker.createQ = s.walker.createQ := by
    rintro p s t (⟨-, rfl⟩ | ⟨-, rfl⟩) <;> exact ⟨rfl, rfl⟩
  cases h with
  | accept hs => exact absurd hs hb
  | readBranch r t hs h => exact (hd h :)
  | installDone t hs hv h => exact (hd h :)
  | zeroDone hs hv =>
    rw [setWalker_walker, nextZero]
    split <;> exact ⟨rfl, rfl⟩
  | pass | reject | sendRead | readCreate | readNotMapped | readLeaf | sendAlloc | granted | refused | sendZero
  | sendInstall | take => exact ⟨rfl, rfl⟩

/-- A walk in progress reaches `IDLE` by its response alone (R153). -/
theorem fsmMove_to_idle {s t : State} (h : FsmMove s t) (ht : t.walker.st = .idle) :
    s.walker.st = .rsp ∧ t = takeResponse s := by
  have hd : ∀ {p s t}, descends p s t → t.walker.st ≠ .idle := by
    rintro p s t (⟨-, rfl⟩ | ⟨-, rfl⟩) <;> exact nofun
  cases h with
  | take hs => exact ⟨hs, rfl⟩
  | readBranch r t hs h => exact absurd ht (hd h)
  | installDone t hs hv h => exact absurd ht (hd h)
  | zeroDone hs hv =>
    rw [setWalker_walker, nextZero] at ht
    split at ht <;> exact nomatch ht
  | accept | pass | reject | sendRead | readCreate | readNotMapped | readLeaf | sendAlloc | granted | refused | sendZero
  | sendInstall => exact nomatch ht

/-- From `RSP` there is no other move than the response. -/
theorem fsmMove_rsp {s t : State} (h : FsmMove s t) (hs : s.walker.st = .rsp) : t = takeResponse s := by
  cases h with
  | take => rfl
  | accept h | pass h | reject h | sendRead h | readCreate _ h | readNotMapped _ h | readLeaf _ h | readBranch _ _ h
  | sendAlloc h | granted _ h | refused h | sendZero h | zeroDone h | sendInstall h | installDone _ h =>
    exact nomatch h.symm.trans hs

/-! ### One edge that stalls nothing -/

/-- The edge whose levels `s` holds makes a move. -/
def moves (s : State) : Prop := ∃ t, fsmEdge s = .next t ∧ FsmMove s t

section
variable {s : State}

/-- At level 2 or 1 a descent goes on. -/
theorem edgeDescend_goes_on (hl : s.walker.lvlQ = 2 ∨ s.walker.lvlQ = 1) (p : Ppn) :
    ∃ t, edgeDescend p s = .next t ∧ descends p s t := by
  obtain h2 | h1 := hl
  · exact ⟨_, edgeDescend_two h2 p, .inl ⟨h2, rfl⟩⟩
  · exact ⟨_, edgeDescend_one h1 p, .inr ⟨h1, rfl⟩⟩

theorem moves_check (h : s.walker.st = .check) : moves s := by
  rw [moves, fsmEdge_check h]
  cases hc : canonical s.walker.vaQ
  · exact ⟨_, edgeCheck_noncanonical hc, .reject h hc⟩
  · exact ⟨_, edgeCheck_canonical hc, .pass h hc⟩

theorem moves_rdReq (h : s.walker.st = .rdReq) (hr : s.pins.memReqReady = true) : moves s :=
  ⟨_, (fsmEdge_rdReq h).trans (edgeRdReq_accepted hr), .sendRead h⟩

theorem moves_rdWait (h : s.walker.st = .rdWait) (hv : s.pins.memRspValid = true)
    (hh : readHeld s.pins.memRspRdata s = true) (hd : descending s.walker = true) : moves s := by
  obtain ⟨hl, -⟩ := (descending_iff _).mp hd
  obtain ⟨t, ht⟩ := edgeEntry_goes_on (s := readLatched s.pins.memRspRdata s) s.pins.memRspRdata hl
  exact ⟨t, (fsmEdge_rdWait h).trans ((edgeRdWait_answer hv hh).trans ht), edgeEntry_moves h ht⟩

theorem moves_alReq (h : s.walker.st = .alReq) (hr : s.pins.allocReqReady = true) : moves s :=
  ⟨_, (fsmEdge_alReq h).trans (if_pos hr), .sendAlloc h⟩

theorem moves_zrReq (h : s.walker.st = .zrReq) (hr : s.pins.memReqReady = true) : moves s :=
  ⟨_, (fsmEdge_zrReq h).trans (if_pos hr), .sendZero h⟩

theorem moves_zrWait (h : s.walker.st = .zrWait) (hv : s.pins.memRspValid = true) : moves s :=
  ⟨_, (fsmEdge_zrWait h).trans (edgeZrWait_answer hv), .zeroDone h hv⟩

theorem moves_inReq (h : s.walker.st = .inReq) (hr : s.pins.memReqReady = true) : moves s :=
  ⟨_, (fsmEdge_inReq h).trans (if_pos hr), .sendInstall h⟩

theorem moves_inWait (h : s.walker.st = .inWait) (hv : s.pins.memRspValid = true) (hd : descending s.walker = true) :
    moves s := by
  obtain ⟨hl, -⟩ := (descending_iff _).mp hd
  obtain ⟨t, ht, hdt⟩ := edgeDescend_goes_on (s := performWrite (slotAddr s.walker) (branchEntry s.walker.newQ) s) hl
    s.walker.newQ
  exact ⟨t, (fsmEdge_inWait h).trans ((edgeInWait_answer hv).trans ht), .installDone t h hv hdt⟩

theorem moves_rsp (h : s.walker.st = .rsp) (hr : s.pins.rspReady = true) : moves s :=
  ⟨_, (fsmEdge_rsp h).trans (edgeRsp_taken hr), .take h⟩

end

/-- The levels of an edge that carries the memory's answer. -/
def memPins (s : State) : Pins :=
  { readyPins with memRspValid := true, memRspRdata := memWord s.mem (requestAddr s.walker).toNat }

section
variable {s : State}

theorem easyEdge_ready
    (h : s.walker.st = .check ∨ s.walker.st = .rdReq ∨ s.walker.st = .alReq ∨ s.walker.st = .zrReq ∨
      s.walker.st = .inReq ∨ s.walker.st = .rsp) : easyEdge s = fsmEdge (setPins readyPins false s) := by
  rw [← ownEdge_ready]
  obtain h | h | h | h | h | h := h <;> simp only [easyEdge, h]

theorem easyEdge_answered (h : s.walker.st = .rdWait ∨ s.walker.st = .zrWait ∨ s.walker.st = .inWait)
    (ha : admits s.platform (requestAddr s.walker) = true) : easyEdge s = fsmEdge (setPins (memPins s) false s) := by
  have he : easyEdge s = memAnswer s := by obtain h | h | h := h <;> simp only [easyEdge, h]
  have ho : memOutstanding s.walker = true := by obtain h | h | h := h <;> simp [memOutstanding, h]
  rw [he, memAnswer_eq ho, if_pos ha]
  rfl

/-- The edge at `s` in that environment makes a move, with some input levels and some count of the allocator's draws. -/
def easyMoves (s : State) : Prop :=
  ∃ p d t, easyEdge s = .next t ∧ FsmMove (setPins p false { s with allocDraws := d }) t

theorem easyMoves_of_edge {p : Pins} (he : easyEdge s = fsmEdge (setPins p false s)) (hm : moves (setPins p false s)) :
    easyMoves s := by
  obtain ⟨t, ht, hm⟩ := hm
  exact ⟨p, s.allocDraws, t, he.trans ht, hm⟩

/-- Where memory serves every address and the allocator answers freely, every edge of a walk in progress makes a move. -/
theorem easyEdge_moves (hi : Invariant s) (hall : allAdmitted s) (hf : s.allocScript = none) (hb : s.walker.st ≠ .idle) :
    easyMoves s := by
  have hready := fun h => easyMoves_of_edge (easyEdge_ready (s := s) h)
  have hmem := fun h => easyMoves_of_edge (easyEdge_answered (s := s) h (hall _))
  cases hs : s.walker.st
  case idle => exact absurd hs hb
  case check => exact hready (.inl hs) (moves_check hs)
  case rdReq => exact hready (.inr (.inl hs)) (moves_rdReq hs rfl)
  case rdWait =>
    have hq : requestAddr s.walker = slotAddr s.walker := by rw [requestAddr, hs]
    have hh : readHeld (memWord s.mem (requestAddr s.walker).toNat) (setPins (memPins s) false s) = true := by
      rw [hq]
      exact readHeld_now
    exact hmem (.inl hs) (moves_rdWait hs rfl hh ((walkerOk_rdWait hs).mp hi.walker))
  case alReq => exact hready (.inr (.inr (.inl hs))) (moves_alReq hs rfl)
  case alWait =>
    have ha := nextAnswer_free hf
    cases hd : Config.allocDraw s.allocDraws with
    | ok new =>
      rw [hd] at ha
      exact ⟨_, _, _, easyEdge_alWait_ok hs ha, .granted new hs⟩
    | outOfMemory =>
      rw [hd] at ha
      exact ⟨_, _, _, easyEdge_alWait_refused hs ha, .refused hs⟩
  case zrReq => exact hready (.inr (.inr (.inr (.inl hs)))) (moves_zrReq hs rfl)
  case zrWait => exact hmem (.inr (.inl hs)) (moves_zrWait hs rfl)
  case inReq => exact hready (.inr (.inr (.inr (.inr (.inl hs))))) (moves_inReq hs rfl)
  case inWait =>
    obtain ⟨hc, -⟩ := (walkerOk_inWait hs).mp hi.walker
    obtain ⟨hd, -⟩ := (creating_iff _).mp hc
    exact hmem (.inr (.inr hs)) (moves_inWait hs rfl hd)
  case rsp => exact hready (.inr (.inr (.inr (.inr (.inr hs))))) (moves_rsp hs rfl)

end

/-! ### The end of the walk -/

/-- How the walk in progress at `s` ends, at `t`: by its response, which fits the request latched. -/
structure WalkEnds (s t : State) : Prop where
  idle : t.walker.st = .idle
  inv : Invariant t
  script : t.allocScript = none
  result : t.result = .walk (responseOf t.walker)
  fits : responseFits t.walker = true
  va : t.walker.vaQ = s.walker.vaQ
  create : t.walker.createQ = s.walker.createQ
  offered : s.walker.st = .rsp → t.result = .walk (responseOf s.walker)

theorem untilIdle_ends {n : Nat} {s : State} (hn : edgesLeft s.walker ≤ n) (hi : Invariant s) (hall : allAdmitted s)
    (hf : s.allocScript = none) (hb : s.walker.st ≠ .idle) : ∃ t, untilIdle n s = .next t ∧ WalkEnds s t := by
  induction n generalizing s with
  | zero => exact absurd (edgesLeft_pos hb) (by omega)
  | succ n ih =>
    obtain ⟨p, d, u, hu, hm⟩ := easyEdge_moves hi hall hf hb
    have hiu := easyEdge_invariant hi hu
    have hfu : u.allocScript = none := by rw [fsmMove_only hm]; exact hf
    rw [untilIdle_succ hb, hu, andThen_next]
    by_cases hui : u.walker.st = .idle
    · obtain ⟨hs, rfl⟩ := fsmMove_to_idle hm hui
      exact ⟨_, untilIdle_of_idle hui n,
        { idle := hui, inv := hiu, script := hfu, result := rfl, va := rfl, create := rfl, offered := fun _ => rfl,
          fits := ((walkerOk_rsp hs).mp hi.walker).2 }⟩
    · have hlt : edgesLeft u.walker < edgesLeft s.walker := 
        fsmMove_edgesLeft (s := setPins p false { s with allocDraws := d }) hm hi.walker hb
      obtain ⟨hva, hcr⟩ := fsmMove_request hm hb
      obtain ⟨t, ht, he⟩ := ih (by omega) hiu (fun a => by rw [easyEdge_platform hu]; exact hall a) hfu hui
      exact ⟨t, ht, { he with
        va := he.va.trans hva
        create := he.create.trans hcr
        offered := fun hs => absurd (by rw [fsmMove_rsp hm hs]; rfl) hui }⟩

theorem awaitIdle_ends {s : State} (hi : Invariant s) (hall : allAdmitted s) (hf : s.allocScript = none)
    (hb : s.walker.st ≠ .idle) : ∃ t, awaitIdle s = .next t ∧ WalkEnds s t :=
  untilIdle_ends (edgesLeft_le s.walker) hi hall hf hb

/-- A walk waits for the walker to be `IDLE` and then does what it does from there. -/
theorem exec_walkOf_waits {s t : State} (h : awaitIdle s = .next t) (ht : t.walker.st = .idle) (create : Bool) (va : Word)
    (root : Ppn) : exec (walkOf create va root) s = exec (walkOf create va root) t := by
  rw [exec_walkOf, exec_walkOf, h, awaitIdle_of_idle ht]

/-- Settles O56: the walk ends by `awaitIdle_ends`, and either walk begins with that wait. -/
theorem waitingRequestIsServedAfterTheWalk : Obligations.WaitingRequestIsServedAfterTheWalk := by
  intro s va root hi hall hf hb
  obtain ⟨t, ht, he⟩ := awaitIdle_ends hi hall hf hb
  exact ⟨t, ht, he.idle, he.inv, he.result, he.fits, he.va, he.create, he.offered,
    exec_walkOf_waits ht he.idle false va root, exec_walkOf_waits ht he.idle true va root⟩

/-! ### Walks complete -/

/-- The environment answers everything: memory serves every address and the allocator is free. -/
def answersAll (s : State) : Prop := allAdmitted s ∧ s.allocScript = none

/-- `k` completes where everything is answered. -/
def completes (k : State → Out) : Prop := ∀ s, answersAll s → ∃ t, k s = .next t

section
variable {k : State → Out} (hk : completes k) (level below : Lvl)
include hk

theorem createNode_completes : completes (createNode level below k) := by
  rintro s ⟨hall, hf⟩
  have ha := nextAnswer_free hf
  cases hd : Config.allocDraw s.allocDraws with
  | ok new =>
    rw [hd] at ha
    rw [createNode_granted ha (frameAdmitted_of_all hall new) (hall _)]
    exact hk _ ⟨hall, hf⟩
  | outOfMemory =>
    rw [hd] at ha
    exact ⟨_, createNode_refused ha⟩

theorem walkTurn_completes (create : Bool) : completes (walkTurn create level below k) := by
  rintro s ⟨hall, hf⟩
  have hs : entryServed level s := hall _
  cases create with
  | false =>
    obtain ⟨he, -, -⟩ | ⟨-, hb, -⟩ | ⟨-, -, hl⟩ := kind_cases (entryAt level s)
    · exact ⟨_, ncLevel_empty hs he⟩
    · obtain ⟨t, ht⟩ := hk (descendInto (ptePpn (entryAt level s)) below (afterRead level s)) ⟨hall, hf⟩
      exact ⟨t, (ncLevel_branch hs hb).trans ht⟩
    · exact ⟨_, ncLevel_leaf hs hl⟩
  | true =>
    obtain ⟨he, -, -⟩ | ⟨-, hb, -⟩ | ⟨-, -, hl⟩ := kind_cases (entryAt level s)
    · obtain ⟨t, ht⟩ := createNode_completes hk level below (afterRead level s) ⟨hall, hf⟩
      exact ⟨t, (cLevel_empty hs he).trans ht⟩
    · obtain ⟨t, ht⟩ := hk (descendInto (ptePpn (entryAt level s)) below (afterRead level s)) ⟨hall, hf⟩
      exact ⟨t, (cLevel_branch hs hb).trans ht⟩
    · exact ⟨_, cLevel_leaf hs hl⟩

end

theorem walkLoop_completes (create : Bool) : completes (walkLoop create) :=
  walkTurn_completes (walkTurn_completes (fun s _ => ⟨_, respondOk_eq s⟩) 1 0 create) 2 1 create

/-- From an idle walker a walk completes where everything is answered. -/
theorem exec_walkOf_completes_of_idle {s : State} (hs : s.walker.st = .idle) (h : answersAll s) (create : Bool) (va : Word)
    (root : Ppn) : ∃ t, exec (walkOf create va root) s = .next t := by
  cases hc : canonical va
  · exact ⟨_, exec_walkOf_noncanonical hs hc create root⟩
  · obtain ⟨t, ht⟩ := walkLoop_completes create (beginWalk va root create s) h
    exact ⟨t, (exec_walkOf_canonical hs hc create root).trans ht⟩

/-- So it does from any state that meets the invariant. -/
theorem exec_walkOf_completes {s : State} (hi : Invariant s) (hall : allAdmitted s) (hf : s.allocScript = none)
    (create : Bool) (va : Word) (root : Ppn) : ∃ t, exec (walkOf create va root) s = .next t ∧ t.walker.st = .idle := by
  have hrun : ∃ t, exec (walkOf create va root) s = .next t := by
    by_cases hs : s.walker.st = .idle
    · exact exec_walkOf_completes_of_idle hs ⟨hall, hf⟩ create va root
    · obtain ⟨b, hb, he⟩ := awaitIdle_ends hi hall hf hs
      rw [exec_walkOf_waits hb he.idle]
      exact exec_walkOf_completes_of_idle he.idle ⟨fun a => by rw [awaitIdle_platform hb]; exact hall a, he.script⟩ _ _ _
  obtain ⟨t, ht⟩ := hrun
  obtain ⟨x, level, node, idx, u, rfl, -⟩ := exec_walkOf_ends ht
  exact ⟨_, ht, rfl⟩

/-- Settles O33: both walks by `exec_walkOf_completes`. -/
theorem walksCompleteOnAdmittedMemory : Obligations.WalksCompleteOnAdmittedMemory := fun _ va root hi hall hf =>
  ⟨exec_walkOf_completes hi hall hf false va root, exec_walkOf_completes hi hall hf true va root⟩

end Sys2Proof.Machine
end

section
/-! The clocked FSM makes the walk of the operation (41_walker.md R151): from the request handshake to `IDLE` the states of
the FSM and of the operation differ in `st` alone. -/

namespace Sys2Proof.Machine

/-! ### The operation's state and the FSM's -/

/-- The state with the FSM moved to `f`. -/
def atSt (f : Fsm) (c : State) : State := setWalker (goto f c.walker) c

/-- The FSM's state where the operation stands at `level` before its turn; at level 0 it has found its slot. -/
def entered (level : Lvl) (c : State) : State :=
  if level = 0 then setWalker (finish .ok 0 c.walker.nodeQ (vpn c.walker.vaQ 0) c.walker) c else atSt .rdReq c

/-- The operation stands at `level`, the inputs let go and memory in its one form. -/
structure StandsAt (create : Bool) (level : Lvl) (c : State) : Prop where
  pins : c.pins = .quiet
  waiting : c.reqWaiting = false
  mem : memWf c.mem = true
  create : c.walker.createQ = create
  level : c.walker.lvlQ = level

/-- From where the operation stands before `k`, the FSM clocked for `n` edges or more does what `k` does. -/
def clocksAs (create : Bool) (n : Nat) (level : Lvl) (k : State → Out) : Prop :=
  ∀ m c, n ≤ m → StandsAt create level c → runOut m (entered level c) = k c

theorem entered_of_adjacent {level below : Lvl} (h : adjacent level below) (c : State) :
    entered level c = atSt .rdReq c := by
  obtain ⟨rfl, -⟩ | ⟨rfl, -⟩ := h <;> rfl

/-- A descent enters the level below, wherever the FSM was. -/
theorem edgeDescend_adjacent {level below : Lvl} {c : State} (h : adjacent level below) (hl : c.walker.lvlQ = level)
    (f : Fsm) (p : Ppn) (q : Pins) : edgeDescend p (setPins q false (atSt f c)) =
      .next (setPins q false (entered below (descendInto p below c))) := by
  obtain ⟨rfl, rfl⟩ | ⟨rfl, rfl⟩ := h
  · exact edgeDescend_two (s := setPins q false (atSt f c)) hl p
  · exact edgeDescend_one (s := setPins q false (atSt f c)) hl p

section
variable {create : Bool} {level : Lvl} {c : State}

theorem standsAt_release (h : StandsAt create level c) : setPins .quiet false c = c := by
  rw [← h.pins, ← h.waiting]
  rfl

theorem standsAt_afterRead (h : StandsAt create level c) : StandsAt create level (afterRead level c) :=
  ⟨h.pins, h.waiting, h.mem, h.create, h.level⟩

theorem standsAt_descendInto (h : StandsAt create level c) (p : Ppn) (below : Lvl) :
    StandsAt create below (descendInto p below c) := ⟨h.pins, h.waiting, h.mem, h.create, rfl⟩

theorem standsAt_answer {a : AllocAnswer} {u : State} (h : StandsAt create level c) (ha : nextAnswer c = some (a, u)) :
    StandsAt create level (record (.alloc a) u) := by
  rw [nextAnswer_only ha]
  exact ⟨h.pins, h.waiting, h.mem, h.create, h.level⟩

theorem standsAt_zeroed (h : StandsAt create level c) (new : Ppn) :
    StandsAt create level (zeroed new (setWalker (latchZeroed new c.walker) c)) :=
  ⟨h.pins, h.waiting, memWf_memZeroFrame h.mem new, h.create, h.level⟩

theorem standsAt_installed (h : StandsAt create level c) (node : Ppn) (idx : Idx) (v : Word) :
    StandsAt create level (performWrite (entryPa node idx) v c) :=
  ⟨h.pins, h.waiting, memWf_memSetWord h.mem v (entryPa_inside node idx), h.create, h.level⟩

/-- The response is taken, and the walk has ended as the operation's does. -/
theorem runOut_finish (h : StandsAt create level c) (x : Status) (l : Lvl) (node : Ppn) (idx : Idx) {n : Nat} (hn : 1 ≤ n) :
    runOut n (setWalker (finish x l node idx c.walker) c) = .next (ended x l node idx c) := by
  obtain ⟨m, rfl⟩ := Nat.exists_eq_add_of_le' hn
  rw [runOut_rsp rfl, runOut_idle rfl]
  have he : StandsAt create level (ended x l node idx c) := ⟨h.pins, h.waiting, h.mem, h.create, h.level⟩
  exact congrArg _ (standsAt_release he)

end

theorem respondOk_clocks (create : Bool) : clocksAs create 1 0 respondOk := fun _ c hm hc =>
  (runOut_finish hc .ok 0 c.walker.nodeQ (vpn c.walker.vaQ 0) hm).trans (respondOk_eq c).symm

/-! ### The zero fill -/

/-- The first zero writes into the frame as transactions, newest first. -/
def zeroTxnsTo (new : Ppn) : Nat → List Txn
  | 0 => []
  | i + 1 => .write (entryPa new (BitVec.ofNat 9 i)) 0 :: zeroTxnsTo new i

/-- The FSM in `f` with the first `i` zero writes into the frame `new` performed, from the state `c` of the allocation. -/
def zeroStage (f : Fsm) (new : Ppn) (i : Nat) (c : State) : State :=
  { c with
    walker := { c.walker with st := f, newQ := new, ziQ := BitVec.ofNat 10 i }
    mem := zeroWrites c.mem new i
    txns := zeroTxnsTo new i ++ c.txns }

/-- The entry of the next zero write is served. -/
def zeroServed (new : Ppn) (c : State) (i : Nat) : Prop := admits c.platform (entryPa new (BitVec.ofNat 9 i)) = true

theorem zeroTxnsTo_eq (new : Ppn) (n : Nat) : zeroTxnsTo new n =
    ((List.range n).map fun i => Txn.write (entryPa new (BitVec.ofNat 9 i)) 0).reverse := by
  induction n with
  | zero => rfl
  | succ n ih =>
    rw [zeroTxnsTo, ih, List.range_succ, List.map_append, List.reverse_append]
    rfl

section
variable (new : Ppn) {i : Nat} (c : State)

theorem zeroStage_zeroAddr (f : Fsm) : zeroAddr (zeroStage f new i c).walker = entryPa new (BitVec.ofNat 9 i) := by
  rw [zeroAddr_eq_setWidth]
  show entryPa new ((BitVec.ofNat 10 i).setWidth 9) = _
  rw [BitVec.setWidth_ofNat_of_le (by decide)]

theorem zeroStage_ziQ (hi : i < 512) (f : Fsm) : (zeroStage f new i c).walker.ziQ.toNat = i := by
  show (BitVec.ofNat 10 i).toNat = i
  rw [BitVec.toNat_ofNat, Nat.mod_eq_of_lt (by omega)]

/-- A zero write performed and counted. -/
theorem zeroStage_written (hi : i < 512) :
    setWalker (nextZero (zeroStage .zrWait new i c).walker)
      (performWrite (entryPa new (BitVec.ofNat 9 i)) 0 (zeroStage .zrWait new i c)) =
    zeroStage (if i = 511 then .inReq else .zrReq) new (i + 1) c := by
  have hz := zeroStage_ziQ new c hi .zrWait
  have hadd : BitVec.ofNat 10 i + 1 = BitVec.ofNat 10 (i + 1) := (BitVec.ofNat_add i 1).symm
  rw [nextZero_eq (by omega), hz]
  show setWalker { c.walker with st := _, newQ := new, ziQ := BitVec.ofNat 10 i + 1 } _ = _
  rw [hadd]
  rfl

/-- Two edges for each zero write that is served. -/
theorem runOut_zeroStage (hi : i < 512) (hs : zeroServed new c i) (n : Nat) :
    runOut (n + 2) (zeroStage .zrReq new i c) =
      runOut n (zeroStage (if i = 511 then .inReq else .zrReq) new (i + 1) c) := by
  have ha := zeroStage_zeroAddr new (i := i) c .zrWait
  rw [runOut_zrReq rfl]
  show runOut (n + 1) (zeroStage .zrWait new i c) = _
  rw [runOut_zrWait rfl (by rw [ha]; exact hs), ha, zeroStage_written new c hi]

/-- One that is not served stops the walk. -/
theorem runOut_zeroStage_unserved (hs : ¬zeroServed new c i) (n : Nat) :
    runOut (n + 2) (zeroStage .zrReq new i c) = .fault .memNeverAnswers := by
  rw [runOut_zrReq rfl]
  show runOut (n + 1) (zeroStage .zrWait new i c) = _
  refine runOut_unserved rfl ?_ n
  have hq : requestAddr (zeroStage .zrWait new i c).walker = entryPa new (BitVec.ofNat 9 i) :=
    zeroStage_zeroAddr new c .zrWait
  rw [hq]
  exact Bool.eq_false_iff.mpr hs

/-- The zero writes left, all of them served. -/
theorem runOut_zeroFill {d : Nat} (hd : i + (d + 1) = 512) (hs : ∀ j, i ≤ j → j < 512 → zeroServed new c j) (n : Nat) :
    runOut (n + 2 * (d + 1)) (zeroStage .zrReq new i c) = runOut n (zeroStage .inReq new 512 c) := by
  induction d generalizing i with
  | zero =>
    obtain rfl : i = 511 := by omega
    exact runOut_zeroStage new c (by decide) (hs _ (le_refl _) (by decide)) n
  | succ d ih =>
    rw [show n + 2 * (d + 1 + 1) = n + 2 * (d + 1) + 2 by omega,
      runOut_zeroStage new c (by omega) (hs i (le_refl _) (by omega)), if_neg (by omega)]
    exact ih (by omega) fun j h1 h2 => hs j (by omega) h2

/-- The zero writes left, one of them not served. -/
theorem runOut_zeroFill_unserved {d j : Nat} (hd : i + (d + 1) = 512) (hij : i ≤ j) (hj : j < 512)
    (hs : ¬zeroServed new c j) (n : Nat) :
    runOut (n + 2 * (d + 1)) (zeroStage .zrReq new i c) = .fault .memNeverAnswers := by
  by_cases hi : zeroServed new c i
  case neg => exact runOut_zeroStage_unserved new c hi _
  have hne : i ≠ j := fun h => hs (h ▸ hi)
  induction d generalizing i with
  | zero => omega
  | succ d ih =>
    rw [show n + 2 * (d + 1 + 1) = n + 2 * (d + 1) + 2 by omega, runOut_zeroStage new c (by omega) hi, if_neg (by omega)]
    by_cases hi' : zeroServed new c (i + 1)
    · exact ih (by omega) (by omega) hi' fun h => hs (h ▸ hi')
    · rw [show n + 2 * (d + 1) = n + 2 * d + 2 by omega]
      exact runOut_zeroStage_unserved new c hi' _

end

/-- All 512 zero writes performed are the frame zeroed at once. -/
theorem zeroStage_all {c : State} (hm : memWf c.mem = true) (new : Ppn) : zeroStage .inReq new 512 c =
    atSt .inReq (zeroed new (setWalker (latchZeroed new c.walker) c)) := by
  have ht : zeroTxnsTo new 512 = zeroTxns new := zeroTxnsTo_eq new 512
  rw [zeroStage, ht, ← memZeroFrame_eq_zeroWrites hm]
  rfl

/-! ### A node made -/

/-- Only a script that has run out gives no answer. -/
theorem nextAnswer_none_iff {s : State} : nextAnswer s = none ↔ s.allocScript = some [] := by
  unfold nextAnswer
  split <;> simp [*]

section
variable {level below : Lvl} {k : State → Out} {n : Nat} (ha : adjacent level below) (hk : clocksAs true n below k)
include ha hk

/-- The install and the descent. -/
theorem install_clocks {c : State} (hc : StandsAt true level c) {m : Nat} (hm : n + 2 ≤ m) :
    runOut m (atSt .inReq c) =
      installBranch level c.walker.newQ c fun v => k (descendInto c.walker.newQ below v) := by
  obtain ⟨m, rfl⟩ := Nat.exists_eq_add_of_le' (show 2 ≤ m by omega)
  have hl := hc.level
  rw [runOut_inReq rfl]
  show runOut (m + 1) (atSt .inWait c) = _
  have hb : (atSt .inWait c).walker.st ≠ .idle := fun h => nomatch h
  by_cases hs : entryServed level c
  · rw [installBranch, portWrite_of_admits hs]
    subst hl
    obtain ⟨p, hp⟩ := easyEdge_inWait (s := atSt .inWait c) rfl hs
    have hd := edgeDescend_adjacent (c := performWrite (slotAddr c.walker) (branchEntry c.walker.newQ) c) ha rfl .inWait
      c.walker.newQ p
    rw [runOut_succ hb (hp.trans hd) m]
    exact hk m _ (by omega) (standsAt_descendInto (standsAt_installed hc _ _ _) _ _)
  · subst hl
    rw [installBranch, portWrite, if_neg (by exact hs)]
    exact runOut_unserved (s := atSt .inWait c) rfl (Bool.eq_false_iff.mpr hs) m

/-- From the frame given to the descent into the new node. -/
theorem zeroFill_clocks {c : State} (hc : StandsAt true level c) (new : Ppn) {m : Nat} (hm : n + 1026 ≤ m) :
    runOut m (zeroStage .zrReq new 0 c) = portZeroFrame new (setWalker (latchZeroed new c.walker) c) fun u =>
      installBranch level new u fun v => k (descendInto new below v) := by
  have hserved : frameAdmitted c.platform new = true ↔ ∀ j < 512, zeroServed new c j := by
    simp only [frameAdmitted, List.all_eq_true, List.mem_range, zeroServed]
  rw [show m = m - 1024 + 2 * (511 + 1) by omega, portZeroFrame, setWalker_platform]
  by_cases hf : ∀ j < 512, zeroServed new c j
  · rw [if_pos (hserved.mpr hf), runOut_zeroFill new c (d := 511) (by decide) fun j _ hj => hf j hj, zeroStage_all hc.mem]
    exact install_clocks ha hk (standsAt_zeroed hc new) (by omega)
  · rw [if_neg fun h => hf (hserved.mp h)]
    simp only [not_forall] at hf
    obtain ⟨j, hj, hs⟩ := hf
    exact runOut_zeroFill_unserved new c (d := 511) (by decide) (Nat.zero_le j) hj hs _

/-- From the allocation request to the descent into the new node. -/
theorem createNode_clocks {c : State} (hc : StandsAt true level c) {m : Nat} (hm : n + 1028 ≤ m) :
    runOut m (atSt .alReq c) = createNode level below k c := by
  obtain ⟨m, rfl⟩ := Nat.exists_eq_add_of_le' (show 2 ≤ m by omega)
  rw [runOut_alReq rfl]
  show runOut (m + 1) (atSt .alWait c) = _
  have hb : (atSt .alWait c).walker.st ≠ .idle := fun h => nomatch h
  cases hn : nextAnswer c with
  | none =>
    rw [createNode, allocFrame, hn]
    have hn' : nextAnswer (atSt .alWait c) = none := nextAnswer_none_iff.mpr (nextAnswer_none_iff.mp hn :)
    exact runOut_fault hb (easyEdge_alWait_none rfl hn') m
  | some r =>
    obtain ⟨a, u⟩ := r
    have hu := nextAnswer_only hn
    have hn' := nextAnswer_congr (t := atSt .alWait c) hn rfl rfl
    have hcu := standsAt_answer hc hn
    cases a with
    | outOfMemory =>
      rw [createNode_refused hn, runOut_succ hb (easyEdge_alWait_refused rfl hn') m, ← hc.level]
      refine Eq.trans ?_ (runOut_finish hcu .outOfMemory c.walker.lvlQ c.walker.nodeQ (idxQ c.walker) (by omega : 1 ≤ m))
      rw [hu]
      rfl
    | ok new =>
      rw [runOut_succ hb (easyEdge_alWait_ok rfl hn') m, createNode, allocFrame_of_answer hn]
      have hz : setWalker (goto .zrReq (latchFrame new (atSt .alWait c).walker)) (record (.alloc (.ok new))
          { atSt .alWait c with allocScript := u.allocScript, allocDraws := u.allocDraws }) =
          zeroStage .zrReq new 0 (record (.alloc (.ok new)) u) := by
        rw [hu]
        rfl
      rw [hz]
      exact zeroFill_clocks ha hk hcu new (by omega)

end

/-! ### A turn -/

/-- The memory's answer to the read of a turn. -/
theorem easyEdge_read {create : Bool} {level : Lvl} {c : State} (hc : StandsAt create level c) (hs : entryServed level c) :
    ∃ p, easyEdge (openRead (atSt .rdWait c)) =
      edgeEntry (entryAt level c) (setPins p false (atSt .rdWait (afterRead level c))) := by
  obtain rfl := hc.level
  exact easyEdge_rdWait (s := openRead (atSt .rdWait c)) rfl hs

/-- A walk stopped at the entry visited, from where the FSM was. -/
theorem runOut_stop {create : Bool} {level : Lvl} {c : State} (hc : StandsAt create level c) (f : Fsm) (x : Status)
    {m : Nat} (hm : 1 ≤ m) : runOut m (stopHere x (atSt f c)) =
      .next (ended x level c.walker.nodeQ (vpn c.walker.vaQ level) c) := by
  obtain rfl := hc.level
  exact runOut_finish hc x c.walker.lvlQ c.walker.nodeQ (idxQ c.walker) hm

/-- A turn of the loop, clocked: at most 2 edges for the read, 2 for the allocation, 1024 for the zero writes and 2 for the
install. -/
theorem walkTurn_clocks {create : Bool} {level below : Lvl} {k : State → Out} {n : Nat} (hn : 1 ≤ n)
    (ha : adjacent level below) (hk : clocksAs create n below k) :
    clocksAs create (n + 1030) level (walkTurn create level below k) := by
  intro m c hm hc
  obtain ⟨m, rfl⟩ := Nat.exists_eq_add_of_le' (show 2 ≤ m by omega)
  rw [entered_of_adjacent ha, runOut_rdReq rfl]
  show runOut (m + 1) (openRead (atSt .rdWait c)) = _
  have hb : (openRead (atSt .rdWait c)).walker.st ≠ .idle := fun h => nomatch h
  by_cases hs : entryServed level c
  case neg =>
    rw [walkTurn_unserved hs]
    obtain rfl := hc.level
    exact runOut_unserved (s := openRead (atSt .rdWait c)) rfl (Bool.eq_false_iff.mpr hs) m
  obtain ⟨p, hp⟩ := easyEdge_read hc hs
  have hr := standsAt_afterRead hc
  obtain ⟨he, -, -⟩ | ⟨-, hbr, -⟩ | ⟨-, -, hl⟩ := kind_cases (entryAt level c)
  case inl =>
    cases create with
    | false =>
      have hx := edgeEntry_notMapped (s := setPins p false (atSt .rdWait (afterRead level c))) he hc.create
      rw [runOut_succ (t := stopHere .notMapped (atSt .rdWait (afterRead level c))) hb (hp.trans hx) m, walkTurn,
        ncLevel_empty hs he]
      exact runOut_stop hr .rdWait .notMapped (by omega)
    | true =>
      have hx := edgeEntry_create (s := setPins p false (atSt .rdWait (afterRead level c))) he hc.create
      rw [runOut_succ (t := atSt .alReq (afterRead level c)) hb (hp.trans hx) m, walkTurn, cLevel_empty hs he]
      exact createNode_clocks ha hk hr (by omega)
  case inr.inl =>
    rw [runOut_succ hb (hp.trans ((edgeEntry_branch hbr).trans (edgeDescend_adjacent ha hr.level .rdWait _ p))) m,
      hk m _ (by omega) (standsAt_descendInto hr _ _)]
    cases create
    · exact (ncLevel_branch hs hbr).symm
    · exact (cLevel_branch hs hbr).symm
  case inr.inr =>
    have hx := edgeEntry_leaf (s := setPins p false (atSt .rdWait (afterRead level c))) hl
    rw [runOut_succ (t := stopHere .blockedBySuperpage (atSt .rdWait (afterRead level c))) hb (hp.trans hx) m]
    refine (runOut_stop hr .rdWait .blockedBySuperpage (by omega)).trans ?_
    cases create
    · exact (ncLevel_leaf hs hl).symm
    · exact (cLevel_leaf hs hl).symm

/-- The loop, clocked. -/
theorem walkLoop_clocks (create : Bool) : clocksAs create 2061 2 (walkLoop create) :=
  walkTurn_clocks (by decide) (.inl ⟨rfl, rfl⟩)
    (walkTurn_clocks (by decide) (.inr ⟨rfl, rfl⟩) (respondOk_clocks create))

/-! ### The walk -/

theorem standsAt_beginWalk {s : State} (hm : memWf s.mem = true) (create : Bool) (va : Word) (root : Ppn) :
    StandsAt create 2 (beginWalk va root create s) := ⟨rfl, rfl, hm, rfl, rfl⟩

/-- From the handshake's state, the FSM clocked makes the walk. -/
theorem runOut_beginWalk {s : State} (hs : s.walker.st = .idle) (hm : memWf s.mem = true) (create : Bool) (va : Word)
    (root : Ppn) : runOut walkFuel (beginWalk va root create s) = exec (walkOf create va root) s := by
  have hb := standsAt_beginWalk hm create va root
  cases hc : canonical va
  · rw [exec_walkOf_noncanonical hs hc, walkFuel, runOut_check_not (s := beginWalk va root create s) rfl hc]
    exact runOut_finish hb .invalidAddress 3 0 0 (by decide)
  · rw [exec_walkOf_canonical hs hc, walkFuel, runOut_check (s := beginWalk va root create s) rfl hc]
    exact walkLoop_clocks create 4095 _ (by decide) hb

/-- The edge of the request handshake. -/
theorem clockEdge_request {s : State} (hs : s.walker.st = .idle) (hw : s.reqWaiting = false) (create : Bool) (va : Word)
    (root : Ppn) : clockEdge (requestPins va root create) s =
      .next (setPins (requestPins va root create) false (beginWalk va root create s)) := by
  have hb : protocolBroken (requestPins va root create) s = false := by
    simp [protocolBroken, portMisused, requestChanged, lateResponse, requestPins, Pins.quiet, hw]
  exact (clockEdge_idle hs rfl hb).trans (edgeIdle_request rfl)

/-- From the request to `IDLE`, the FSM clocked ends as the operation does. -/
theorem clocked_walk_eq_exec {s : State} (hs : s.walker.st = .idle) (hw : s.reqWaiting = false) (hm : memWf s.mem = true)
    (create : Bool) (va : Word) (root : Ppn) :
    releasePins (andThen (clockEdge (requestPins va root create) s) awaitIdle) = exec (walkOf create va root) s := by
  rw [clockEdge_request hs hw, andThen_next]
  show runOut walkFuel (setPins _ false (beginWalk va root create s)) = _
  rw [runOut_setPins, runOut_beginWalk hs hm]

/-- Settles O36: both walks by `clocked_walk_eq_exec`. -/
theorem fsmAgreesWithTheWalkOperations : Obligations.FsmAgreesWithTheWalkOperations := fun _ va root hs hw hm =>
  ⟨clocked_walk_eq_exec hs hw hm false va root, clocked_walk_eq_exec hs hw hm true va root⟩

end Sys2Proof.Machine
end
